-- ==== Sys2Proof/Word.lean ====
section
/-! DEFINITION. The bit widths the manual treats as words, and the numbers of its lines, sources, routes and actions. -/

namespace Sys2Proof

/-- A byte of a frame or message (section 6.3 of the scope file). -/
abbrev Byte := BitVec 8

/-- A 16-bit field: a record's detail, a close number, a session number. -/
abbrev Half := BitVec 16

/-- A record's sequence number (R25, R27); 0 stands for "none" in messages. -/
abbrev Seq := BitVec 32

/-- A value of the Timebase, in microseconds (R36). -/
abbrev Time := BitVec 48

/-- An event line EV0 to EV47, and the line source of the same number (section 4.1). -/
abbrev LineNo := Fin 48

/-- A source 0 to 55 (section 4.1). -/
abbrev SourceNo := Fin 56

/-- A route 0 to 7 (section 4.2). -/
abbrev RouteNo := Fin 8

/-- An action 0 to 15; action n drives OUTn (section 4.4). -/
abbrev ActionNo := Fin 16

end Sys2Proof
end

