-- ==== Sys2Proof/Syntax.lean ====
section
/-! DEFINITION. The commands of the block: one constructor of `Instr` for each row of spec/opcode_table.json. -/

namespace Sys2Proof

/-- The two ports (section 4.3). -/
inductive Port where
  | A
  | B
  deriving DecidableEq, Repr

/-- What put the part into hard reset (R160, R188). -/
inductive HardCause where
  /-- Power-on, or a fall of VDD below its range. -/
  | powerOn
  /-- RESET# held low for 1 µs or more with the supply present. -/
  | pin
  deriving DecidableEq, Repr

/-- The known frame types (R133, R137). -/
inductive FrameType where
  | data
  | ack
  | announce
  deriving DecidableEq, Repr

/-- The commands. Rows with no operand but a port act on that port. In a request row, `rest` is every byte of the request
message after its code byte: the tag, then the fields, of any length (R174, R176). -/
inductive Instr where
  /-- HARD_RESET (R188): the part enters hard reset for this cause. -/
  | hardReset (cause : HardCause)
  /-- RESET_RELEASE (R187, R188): hard reset is released, with the straps at these levels. -/
  | resetRelease (rate1 rate0 : Bool)
  /-- SAMPLE_INSTANT (R1, R2): bit n of `raw` is the level of EVn at the sample instant. -/
  | sampleInstant (raw : BitVec 48)
  /-- ACCEPTED_LEVEL_CHANGE (R2). -/
  | acceptedLevelChange (line : LineNo)
  /-- SETTLE_REPORT (R3). -/
  | settleReport (line : LineNo)
  /-- HOLDOFF_EXPIRY (R14), of the level source of this line. -/
  | holdoffExpiry (line : LineNo)
  /-- SERVICE_TIMER_EXPIRY (R78, R79). -/
  | serviceTimerExpiry (route : RouteNo)
  /-- FORM_BATCH (R69, R72): the scheduler of the port takes its opportunity for a new batch. -/
  | formBatch (port : Port)
  /-- REOFFER (R69, R78). -/
  | reoffer (port : Port)
  /-- PLACE_REPLY (R181). -/
  | placeReply (port : Port)
  /-- ROUTE_LOST (R96): the scheduler places a ROUTE-LOST notice. -/
  | routeLost (port : Port)
  /-- ROUTE_GAINED (R96). -/
  | routeGained (port : Port)
  /-- ACTION_PENDING (R120). -/
  | actionPending (port : Port)
  /-- ACTION_ENDED (R121). -/
  | actionEnded (port : Port)
  /-- GRACE_EXPIRY (R119). -/
  | graceExpiry (action : ActionNo)
  /-- PULSE_EXPIRY (R124). -/
  | pulseExpiry (action : ActionNo)
  /-- SYNC_BYTE (R136): a byte 0xB4 is received. -/
  | syncByte (port : Port)
  /-- FRAME_HEADER_RECEIVED (R136, R137): `bytes` complete the seven header bytes. -/
  | frameHeaderReceived (port : Port) (bytes : List Byte)
  /-- PAYLOAD_BAD (R138): `bytes` complete payload and check of a frame of this type, and the check fails. -/
  | payloadBad (port : Port) (ftype : FrameType) (bytes : List Byte)
  /-- INTER_BYTE_GAP (R139). -/
  | interByteGap (port : Port)
  /-- FRAMING_ERROR (R139). -/
  | framingError (port : Port)
  /-- DATA_FRAME_RECEIVED (R138, R141): a valid DATA frame with these fields is complete. -/
  | dataFrameReceived (port : Port) (seq info : Byte) (payload : List Byte)
  /-- ACK_FRAME_RECEIVED (R145). -/
  | ackFrameReceived (port : Port) (seq info : Byte) (payload : List Byte)
  /-- ANNOUNCE_FRAME_RECEIVED (R138). -/
  | announceFrameReceived (port : Port) (seq info : Byte) (payload : List Byte)
  /-- ACK_DELAY_EXPIRY (R146). -/
  | ackDelayExpiry (port : Port)
  /-- TRANSMIT_ACK_FRAME (R147). -/
  | transmitAckFrame (port : Port)
  /-- TRANSMIT_DATA_FRAME (R147). -/
  | transmitDataFrame (port : Port)
  /-- FRAME_TRANSMIT_END (R150): the frame being transmitted has gone out to its last byte. -/
  | frameTransmitEnd (port : Port)
  /-- RETRANSMIT_TIMEOUT (R151, R154). -/
  | retransmitTimeout (port : Port)
  /-- LINK_BREAK (R155). -/
  | linkBreak (port : Port)
  /-- BREAK_LINE_MARK (R158). -/
  | breakLineMark (port : Port)
  /-- ANNOUNCE (R158). -/
  | announce (port : Port)
  /-- SILENCE_EXPIRY (R167). -/
  | silenceExpiry (port : Port)
  /-- DEVICE_RESET_TIMEOUT (R184). -/
  | deviceResetTimeout (port : Port)
  /-- OPEN, code 0x01 (R162, R164, R165): `seq` is the SEQ of the DATA frame that carried it. -/
  | openSession (port : Port) (seq : Byte) (rest : List Byte)
  /-- CLOSE, code 0x02 (R166). -/
  | close (port : Port) (rest : List Byte)
  /-- PING, code 0x03 (R182). -/
  | ping (port : Port) (rest : List Byte)
  /-- DORMANT, code 0x04 (R169). -/
  | dormant (port : Port) (rest : List Byte)
  /-- STATUS, code 0x05 (R183). -/
  | status (port : Port) (rest : List Byte)
  /-- DEVICE-RESET, code 0x06 (R184). -/
  | deviceReset (port : Port) (rest : List Byte)
  /-- GET-TIME, code 0x07 (R37). -/
  | getTime (port : Port) (rest : List Byte)
  /-- SET-TIME, code 0x08 (R38). -/
  | setTime (port : Port) (rest : List Byte)
  /-- SOURCE-SET, code 0x10 (R18 to R20). -/
  | sourceSet (port : Port) (rest : List Byte)
  /-- SOURCE-GET, code 0x11 (R21). -/
  | sourceGet (port : Port) (rest : List Byte)
  /-- LINE-READ, code 0x12 (R22). -/
  | lineRead (port : Port) (rest : List Byte)
  /-- ROUTE-SET, code 0x20 (R59 to R62). -/
  | routeSet (port : Port) (rest : List Byte)
  /-- ROUTE-GET, code 0x21 (R63). -/
  | routeGet (port : Port) (rest : List Byte)
  /-- CLAIM-ROUTE, code 0x22 (R99 to R102). -/
  | claimRoute (port : Port) (rest : List Byte)
  /-- RELEASE-ROUTE, code 0x23 (R103). -/
  | releaseRoute (port : Port) (rest : List Byte)
  /-- RESUME-ROUTE, code 0x24 (R89). -/
  | resumeRoute (port : Port) (rest : List Byte)
  /-- SERVICE-DONE, code 0x25 (R81 to R84). -/
  | serviceDone (port : Port) (rest : List Byte)
  /-- ACTION-SET, code 0x30 (R129). -/
  | actionSet (port : Port) (rest : List Byte)
  /-- ACTION-GET, code 0x31 (R130). -/
  | actionGet (port : Port) (rest : List Byte)
  /-- CANCEL-ACTION, code 0x32 (R125). -/
  | cancelAction (port : Port) (rest : List Byte)
  /-- SET-OUTPUT, code 0x33 (R127). -/
  | setOutput (port : Port) (rest : List Byte)
  /-- CLEAR-OUTPUT, code 0x34 (R128). -/
  | clearOutput (port : Port) (rest : List Byte)
  /-- HISTORY-READ, code 0x38 (R40, R41). -/
  | historyRead (port : Port) (rest : List Byte)
  /-- BAD_CODE (R176): a request whose code is none of the above. -/
  | badCode (port : Port) (code : Byte) (rest : List Byte)
  /-- SKIP_COMPLETE (R137). -/
  | skipComplete (port : Port)
  deriving DecidableEq, Repr

end Sys2Proof
end

