-- ==== Sys2Proof/Machine/Bytes.lean ====
section
/-! DEFINITION. Bytes of multi-byte fields, least significant byte first (section 6.3 of the scope file). -/

namespace Sys2Proof.Machine

/-- The low byte of a number. -/
def byte (n : Nat) : Byte := BitVec.ofNat 8 n

/-- A number as `k` bytes, least significant first. -/
def leBytes : Nat → Nat → List Byte
  | 0, _ => []
  | k + 1, n => byte n :: leBytes k (n / 256)

/-- The number that bytes spell, least significant first (R186). -/
def leNumber : List Byte → Nat
  | [] => 0
  | b :: bs => b.toNat + 256 * leNumber bs

/-- A set of bits as a number: bit i is the i-th Bool. -/
def bitNumber : List Bool → Nat
  | [] => 0
  | b :: bs => b.toNat + 2 * bitNumber bs

/-- `n` divided by `d`, rounded up. -/
def roundUp (n d : Nat) : Nat := (n + d - 1) / d

end Sys2Proof.Machine
end

