-- ==== Sys2Proof/Config.lean ====
section
/-! DEFINITION. What the part fixes once (sizes of the key-figures table, identity codes) and the one value the manual
leaves open. -/

namespace Sys2Proof.Config

/-- General records of the Event Store (R28). -/
def generalRecords : Nat := 248

/-- Reserve records of the Event Store (R28). -/
def reserveRecords : Nat := 8

/-- Entries of the History Ring (R39). -/
def historyEntries : Nat := 64

/-- Replies and reserved places of a port's reply backlog (R142, R179). -/
def backlogPlaces : Nat := 8

/-- Retransmission rounds on one oldest frame (R151, R154). -/
def retryLimit : Nat := 8

/-- Longest payload the receiver accepts (R137). -/
def longestPayload : Nat := 256

/-- The lost tally saturates here (R53). -/
def tallyMax : Nat := 65535

/-- The family code carried in ANNOUNCE and OPENED (R159, R162). -/
def familyCode : Nat := 0x4816

/-- The revision carried in ANNOUNCE and OPENED (R159). -/
def revision : Nat := 0x01

/-- How many held occurrences and close reports one step hands on before it leaves the rest for the next step.
DESIGN CHOICE (log 8), safe: nothing is lost, what is left stays held, and only a chain of hand-offs longer than this
(two level sources with holdoff 0 that drop each other's records, R13 and R50, make an endless one) is cut at all. -/
def handOffs : Nat := 4096

/-- FREE VALUE (log 7). Where LINK_A_DOWN or LINK_B_DOWN stands among the ROUTE_FAILOVER conditions of the same session
loss: R107 says they come "in the order in which they arrive", and gives none. Applied to `State.arrivals`. -/
opaque linkDownPlace : Nat → Nat

end Sys2Proof.Config
end

