-- ==== Sys2Proof/Machine/State.lean ====
section
/-! DEFINITION. The whole state of the part, as plain data, and the state right after reset. -/

namespace Sys2Proof.Machine

/-- A part that never stops: the manual gives it no condition in which it does (INVENTORY.md, "Faults"). No constructor. -/
inductive Fault where
  deriving DecidableEq, Repr

/-- Why a command has no meaning in the model. -/
inductive Refusal where
  /-- Raised by the dispatch for a row that has no meaning yet; safe. No row is left in this condition. -/
  | notModelled (mnemonic : String)
  deriving DecidableEq, Repr

/-! ## Line Sampler -/

/-- The progress of a line's filter (R2, R3). -/
inductive LineFilter where
  /-- Filtered level and run count (R2). -/
  | settled (level : Bool) (run : Nat)
  /-- Candidate level and count (R3); count 0 until the first sample after the restart. -/
  | unsettled (candidate : Bool) (count : Nat)
  deriving DecidableEq, Repr

/-- One of the 48 lines: raw level of the latest sample, and filter (section 1.1). -/
structure Line where
  raw : Bool
  filter : LineFilter
  deriving DecidableEq, Repr

/-! ## Source Table -/

/-- Source modes (R4, R5). -/
inductive Mode where
  | off | rise | fall | both | high | low | on
  deriving DecidableEq, Repr

/-- Filter settings (R2, R4). -/
inductive FilterSetting where
  | none | ms1 | ms4 | ms16 | ms64
  deriving DecidableEq, Repr

/-- A source's configuration (R4, R5). A route of `none` is NONE. -/
structure SourceConfig where
  mode : Mode
  filter : FilterSetting
  route : Option RouteNo
  coalesce : Bool
  holdoff : Nat
  deriving DecidableEq, Repr

/-- The source states of R6, each with what R6 lets it hold: the open record reference in RAISED, the holdoff timer's time
left (µs) in HOLDOFF. -/
inductive SourceState where
  | off
  | watch
  | raised (openRecord : Option Seq)
  | holdoff (left : Nat)
  deriving DecidableEq, Repr

/-- One of the 56 source entries (section 1.2). -/
structure Source where
  cfg : SourceConfig
  state : SourceState
  deriving DecidableEq, Repr

/-- Occurrence and record kinds (R7, R25). -/
inductive Kind where
  | rise | fall | active | rearm | internal
  deriving DecidableEq, Repr

/-- An occurrence (R7). `coalesce` is the source's coalesce field at the moment of the occurrence (R30). -/
structure Occurrence where
  source : SourceNo
  kind : Kind
  detail : Half
  time : Time
  route : Option RouteNo
  coalesce : Bool
  deriving DecidableEq, Repr

/-- What the Source Table holds and has not yet handed on (R8, R24, R34). -/
inductive Held where
  /-- An internal occurrence. -/
  | occurrence (o : Occurrence)
  /-- A close report: the record's sequence number and source, and the time of the close (R13, R34). -/
  | closeReport (seq : Seq) (source : SourceNo) (time : Time)
  deriving DecidableEq, Repr

/-! ## Event Store and History Ring -/

/-- The states of a record that is not FREE (R26). -/
inductive RecState where
  | pending | offered
  deriving DecidableEq, Repr

/-- A record that is not FREE (R25). -/
structure Rec where
  seq : Seq
  source : SourceNo
  kind : Kind
  count : Nat
  detail : Half
  first : Time
  last : Time
  route : RouteNo
  state : RecState
  redelivered : Bool
  deriving DecidableEq, Repr

/-- The Event Store's counts, threshold and sequence counter (R27, R28, R33). -/
structure Store where
  freeGeneral : Nat
  freeReserve : Nat
  lowArmed : Bool
  nextSeq : Seq
  deriving DecidableEq, Repr

/-- How a record closed (R34, R39). -/
inductive CloseOutcome where
  | serviced | dropped
  deriving DecidableEq, Repr

/-- A history entry (R39). -/
structure HistEntry where
  closeNo : Half
  seq : Seq
  source : SourceNo
  kind : Kind
  count : Nat
  outcome : CloseOutcome
  first : Time
  closeTime : Time
  deriving DecidableEq, Repr

/-- The History Ring: entries oldest first, and the close-number counter (R39). -/
structure History where
  entries : List HistEntry
  counter : Half
  deriving DecidableEq, Repr

/-! ## Route Table -/

/-- Overflow policies (R43). -/
inductive Policy where
  | dropNew | dropOld
  deriving DecidableEq, Repr

/-- A route's configuration (R43). -/
structure RouteConfig where
  priority : Nat
  depth : Nat
  policy : Policy
  batchMax : Nat
  serviceTimeout : Nat
  retries : Nat
  wake : Bool
  failover : Bool
  takeover : Bool
  masked : Bool
  deriving DecidableEq, Repr

/-- Offer phases (R67). -/
inductive OfferPhase where
  | awaitingAck | timing | untimed | reofferDue
  deriving DecidableEq, Repr

/-- The current batch (R67). `frame` is the SEQ of the DATA frame that carries its latest NOTIFY (R76). -/
structure Batch where
  tag : Byte
  n : Nat
  snapshot : Nat
  retriesLimit : Nat
  attempts : Nat
  phase : OfferPhase
  frame : Byte
  deriving DecidableEq, Repr

/-- A route entry (R43 to R45). The queue's head comes first; `timer` is the service timer's time left in µs. -/
structure Route where
  cfg : RouteConfig
  owner : Option Port
  queue : List Rec
  stalled : Bool
  lost : Nat
  tagCounter : Byte
  batch : Option Batch
  timer : Option Nat
  deriving DecidableEq, Repr

/-! ## Action Unit -/

/-- Action kinds (R113). -/
inductive ActionKind where
  | immediate | graced | manual
  deriving DecidableEq, Repr

/-- Output shapes (R113). -/
inductive Shape where
  | level | pulse
  deriving DecidableEq, Repr

/-- Pulse widths (R113). -/
inductive PulseWidth where
  | ms1 | ms10 | ms100 | ms1000
  deriving DecidableEq, Repr

/-- An action's configuration (R113). A trigger of `none` is NONE. -/
structure ActionConfig where
  trigger : Option SourceNo
  kind : ActionKind
  grace : Nat
  shape : Shape
  width : PulseWidth
  activeHigh : Bool
  pushPull : Bool
  deriving DecidableEq, Repr

/-- Fire causes (R114). -/
inductive FireCause where
  | immediate | graceExpiry | request
  deriving DecidableEq, Repr

/-- Action states with what R114 lets each hold: the grace timer's time left in GRACE; the fire cause, and the pulse timer's
time left where one runs, in FIRED (µs). -/
inductive ActionState where
  | idle
  | grace (left : Nat)
  | fired (cause : FireCause) (pulse : Option Nat)
  deriving DecidableEq, Repr

/-- Outcomes of a grace (R114, R121). -/
inductive GraceOutcome where
  | fired | cancelled
  deriving DecidableEq, Repr

/-- How the most recent grace ended, and the port whose request ended it (R114). -/
structure GraceEnd where
  outcome : GraceOutcome
  endedBy : Option Port
  deriving DecidableEq, Repr

/-- An action entry (R113, R114). Its notice flags and told marks stand with the port that holds them (R180). -/
structure Action where
  cfg : ActionConfig
  state : ActionState
  graceNo : Byte
  graceEnd : Option GraceEnd
  deriving DecidableEq, Repr

/-! ## Link Ports -/

/-- The receiver: its phase and what it has gathered (R135 to R138). -/
inductive Receiver where
  | hunt
  /-- Header bytes gathered so far, the SYNC first. -/
  | header (gathered : List Byte)
  /-- The seven header bytes, and the payload bytes gathered so far. -/
  | payload (header gathered : List Byte)
  /-- Bytes still to be counted off. -/
  | skip (left : Nat)
  deriving DecidableEq, Repr

/-- The seven report flags (R140). -/
structure ReportFlags where
  headerBad : Bool
  payloadBad : Bool
  outOfOrder : Bool
  tooLong : Bool
  unknownType : Bool
  windowExceeded : Bool
  rxFull : Bool
  deriving DecidableEq, Repr

/-- The acknowledgement owed (R146): not owed; owed, with the time left of the 1 ms since the acceptance that set it (µs);
owed with the 1 ms passed. -/
inductive AckOwed where
  | clear
  | waiting (left : Nat)
  | due
  deriving DecidableEq, Repr

/-- What waits for the acknowledgement of a message (R149). -/
inductive Role where
  /-- Nothing waits. -/
  | plain
  /-- The OK reply to CLOSE (R166). -/
  | close
  /-- The reply to DEVICE-RESET (R184). -/
  | deviceReset
  /-- An OPENED that delivers a refused OPEN (R164). -/
  | refusedOpen
  /-- A NOTIFY of this route and batch tag (R76). -/
  | notify (route : RouteNo) (tag : Byte)
  deriving DecidableEq, Repr

/-- How far a placed frame has been transmitted for the first time (R147, R150). -/
inductive Sent where
  | waiting | sending | sent
  deriving DecidableEq, Repr

/-- A DATA frame in the send window (R148). -/
structure Slot where
  seq : Byte
  message : List Byte
  role : Role
  sent : Sent
  deriving DecidableEq, Repr

/-- Whether an expiry of the retransmit timer can still come at this moment, after the acknowledgements taken since time last
passed (R153; log 31). -/
inductive ExpiryNow where
  /-- The timer alone says: it can while it runs. -/
  | byTimer
  /-- An acknowledgement taken first removed the oldest frame: the expiry does not happen. -/
  | precluded
  /-- An ACK frame with report flags, taken first, left frames: an expiry taken with it makes its round too. -/
  | joined
  deriving DecidableEq, Repr

/-- A frame of the part (R133). -/
structure Frame where
  ftype : FrameType
  seq : Byte
  info : Byte
  payload : List Byte
  deriving DecidableEq, Repr

/-- The frame on the transmitter; `live` while it belongs to the port's present session. -/
structure Transmission where
  frame : Frame
  live : Bool
  deriving DecidableEq, Repr

/-- A reply in the backlog (R179). -/
structure Reply where
  message : List Byte
  role : Role
  deriving DecidableEq, Repr

/-- A request accepted and not yet taken (R178): the SEQ of its frame and its bytes. -/
structure Request where
  seq : Byte
  payload : List Byte
  deriving DecidableEq, Repr

/-- The delivery parameters and the silence limit (R135, R162), in the units of OPEN. -/
structure Params where
  maxPayload : Nat
  window : Nat
  silenceLimit : Nat
  retransmit : Nat
  deriving DecidableEq, Repr

/-- Session states (R157). -/
inductive Session where
  | closed | up | enteringDormant | dormant
  deriving DecidableEq, Repr

/-- Reset causes (R160). -/
inductive ResetCause where
  | powerOn | pin | soft | linkBreak
  deriving DecidableEq, Repr

/-- The ANNOUNCE schedule (R158): stopped outside CLOSED; due; due when the time left (µs) has passed; suspended. -/
inductive Schedule where
  | stopped
  | due
  | waiting (left : Nat)
  | suspended
  deriving DecidableEq, Repr

/-- Route notice flags (R94). -/
inductive RouteNotice where
  | none | lost | gained
  deriving DecidableEq, Repr

/-- Action notice flags (R114). -/
inductive ActionNotice where
  | none | pending | ended
  deriving DecidableEq, Repr

/-- A Link Port with its Delivery Scheduler and Request Decoder (R135, R157, R179, R180). Timers hold the time left (µs). -/
structure PortState where
  receiver : Receiver
  expected : Byte
  report : ReportFlags
  ackOwed : AckOwed
  ackDemand : Bool
  sendSeq : Byte
  window : List Slot
  retransmit : Option Nat
  /-- The model's own mark: what acknowledgements of this moment leave of an expiry of the retransmit timer (R153; log 31). -/
  expiryNow : ExpiryNow
  attempts : Nat
  /-- SEQs still to be sent in the retransmission round in progress (R151). -/
  round : List Byte
  /-- Rounds that follow the one in progress (R152). -/
  roundsDue : Nat
  params : Params
  tx : Option Transmission
  spaceTime : Nat
  breakReported : Bool
  session : Session
  sessionNo : Half
  closing : Bool
  /-- Set while the port is UP only to deliver a refused OPEN (R164). -/
  refusing : Bool
  silence : Option Nat
  /-- The model's own mark: a valid frame has restarted the silence timer since time last passed (R167; log 31). -/
  heardNow : Bool
  cause : ResetCause
  announce : Schedule
  accepted : List Request
  backlog : List Reply
  routeNotices : Vector RouteNotice 8
  actionNotices : Vector ActionNotice 16
  told : Vector Bool 16
  /-- A soft reset is pending for this port (R184). -/
  resetPending : Bool
  resetTimer : Option Nat
  deriving DecidableEq, Repr

/-- Both ports. -/
structure Ports where
  a : PortState
  b : PortState
  deriving DecidableEq, Repr

/-! ## The whole part -/

/-- The state of the part, and the queue of commands that wait for it. -/
structure State where
  /-- Commands that wait, first in first out. -/
  pending : List Instr
  /-- The cause, while the part is held in hard reset (R188). -/
  hardReset : Option HardCause
  /-- The straps as sampled at the release of hard reset (R187). -/
  rate1 : Bool
  rate0 : Bool
  timebase : Time
  /-- Microseconds within the current second of the seconds count (R160). -/
  micro : Nat
  seconds : BitVec 24
  /-- The Timebase value of the latest sample instant (R2). -/
  sampleTime : Time
  lines : Vector Line 48
  sources : Vector Source 56
  held : List Held
  store : Store
  history : History
  routes : Vector Route 8
  actions : Vector Action 16
  ports : Ports
  /-- The model's own counter of uses of the free value `Config.linkDownPlace` (log 7). -/
  arrivals : Nat
  deriving DecidableEq, Repr

/-! ## Values after reset -/

/-- A line whose filter has just restarted (R3). -/
def Line.restarted (raw : Bool) : Line := { raw := raw, filter := .unsettled false 0 }

/-- A source entry after hard reset (R4, R5, R23). -/
def Source.initial (i : SourceNo) : Source :=
  if i.val < 48 then
    { cfg := { mode := .off, filter := .ms4, route := some 0, coalesce := false, holdoff := 10 }, state := .off }
  else
    { cfg := { mode := .on, filter := .none, route := some 7, coalesce := true, holdoff := 0 }, state := .watch }

/-- The Event Store after hard reset (R35). -/
def Store.initial : Store :=
  { freeGeneral := Config.generalRecords, freeReserve := Config.reserveRecords, lowArmed := true, nextSeq := 1 }

/-- The History Ring after hard reset (R42). -/
def History.initial : History := { entries := [], counter := 0 }

/-- A route's configuration after hard reset (R43). -/
def RouteConfig.initial (r : RouteNo) : RouteConfig :=
  { priority := if r = 7 then 0 else 2, depth := 32, policy := .dropOld, batchMax := 8, serviceTimeout := 20, retries := 2,
    wake := false, failover := false, takeover := false, masked := false }

/-- A route entry after hard reset (R64). -/
def Route.initial (r : RouteNo) : Route :=
  { cfg := RouteConfig.initial r, owner := none, queue := [], stalled := false, lost := 0, tagCounter := 0, batch := none,
    timer := none }

/-- An action entry after hard reset (R113, R131). -/
def Action.initial : Action :=
  { cfg := { trigger := none, kind := .manual, grace := 50, shape := .level, width := .ms100, activeHigh := false,
             pushPull := false },
    state := .idle, graceNo := 0, graceEnd := none }

/-- No report flag set. -/
def ReportFlags.clear : ReportFlags :=
  { headerBad := false, payloadBad := false, outOfOrder := false, tooLong := false, unknownType := false,
    windowExceeded := false, rxFull := false }

/-- The parameters in force where no OPEN's are (R135, R164). -/
def Params.fallback : Params := { maxPayload := 64, window := 1, silenceLimit := 0, retransmit := 5 }

/-- A port after hard reset (R135, R157, R173, R179, R180). The values of `expected` and `sendSeq` are DESIGN CHOICE
(log 21): R135 says they take their values at the next successful OPEN. -/
def PortState.initial (cause : ResetCause) : PortState :=
  { receiver := .hunt, expected := 0, report := .clear, ackOwed := .clear, ackDemand := false, sendSeq := 0, window := [],
    retransmit := none, expiryNow := .byTimer, attempts := 0, round := [], roundsDue := 0, params := .fallback, tx := none,
    spaceTime := 0, breakReported := false, session := .closed, sessionNo := 0, closing := false, refusing := false,
    silence := none, heardNow := false, cause := cause, announce := .due, accepted := [], backlog := [], routeNotices := Vector.replicate 8 .none,
    actionNotices := Vector.replicate 16 .none, told := Vector.replicate 16 false, resetPending := false,
    resetTimer := none }

/-- The reset cause a hard reset leaves (R160, R188). -/
def resetCauseOf : HardCause → ResetCause
  | .powerOn => .powerOn
  | .pin => .pin

/-- Every block at its hard-reset value, with the straps at these levels, at the release of hard reset (R23, R35, R36, R42,
R64, R131, R135, R173, R187). The queue of commands and the free-value counter belong to the model and are kept. -/
def State.released (pending : List Instr) (arrivals : Nat) (cause : HardCause) (rate1 rate0 : Bool) : State :=
  { pending := pending, hardReset := none, rate1 := rate1, rate0 := rate0, timebase := 0, micro := 0, seconds := 0,
    sampleTime := 0, lines := Vector.replicate 48 (Line.restarted false), sources := Vector.ofFn Source.initial, held := [],
    store := .initial, history := .initial, routes := Vector.ofFn Route.initial,
    actions := Vector.replicate 16 Action.initial,
    ports := { a := PortState.initial (resetCauseOf cause), b := PortState.initial (resetCauseOf cause) }, arrivals := arrivals }

/-- The part while it is held in hard reset: no block state is kept (R1, R36, R131, R173, R188). R187 gives the rate of a sample
until the next hard reset and none while that lasts: it is the model's choice that RATE1 and RATE0 are 0 until the release
samples them (log 5). -/
def State.heldInReset (pending : List Instr) (arrivals : Nat) (cause : HardCause) : State :=
  { State.released pending arrivals cause false false with hardReset := some cause }

/-- The machine right after reset: a power-on hard reset has just been released. DESIGN CHOICE (log 5): the straps, which
the board sets, are 0 and 0. -/
def State.reset : State := State.released [] 0 .powerOn false false

end Sys2Proof.Machine
end

