-- ==== Sys2Proof/Machine/Operands.lean ====
section
/-! DEFINITION. The fields of requests: enumerated values and their codes (section 10.6), results (section 10.5), and the
range checks that turn a request's bytes into values. -/

namespace Sys2Proof.Machine

/-- Result codes (section 10.5). -/
inductive Result where
  | ok | badCode | badLength | badValue | badSource | badRoute | notOwner | denied | stale | tooLate | busy | badTrigger
  | notPending | notFired
  deriving DecidableEq, Repr

/-- The code of a result (section 10.5). -/
def Result.code : Result → Byte
  | .ok => 0x00
  | .badCode => 0x01
  | .badLength => 0x02
  | .badValue => 0x03
  | .badSource => 0x04
  | .badRoute => 0x05
  | .notOwner => 0x06
  | .denied => 0x07
  | .stale => 0x08
  | .tooLate => 0x09
  | .busy => 0x0A
  | .badTrigger => 0x0B
  | .notPending => 0x0C
  | .notFired => 0x0D

/-! ## Codes of enumerated values -/

/-- A port or owner field: Port A (0), Port B (1), NONE (0xFF). -/
def ownerCode : Option Port → Byte
  | some .A => 0
  | some .B => 1
  | none => 0xFF

/-- A port as a number: Port A 0, Port B 1. -/
def portCode : Port → Byte
  | .A => 0
  | .B => 1

/-- A Bool field: off 0, on 1. -/
def flagCode (b : Bool) : Byte := if b then 1 else 0

/-- Source modes. -/
def modeCode : Mode → Byte
  | .off => 0
  | .rise => 1
  | .fall => 2
  | .both => 3
  | .high => 4
  | .low => 5
  | .on => 6

/-- Filter settings. -/
def filterCode : FilterSetting → Byte
  | .none => 0
  | .ms1 => 1
  | .ms4 => 2
  | .ms16 => 3
  | .ms64 => 4

/-- A route field: 0 to 7, or NONE (0xFF). -/
def routeCode : Option RouteNo → Byte
  | some r => byte r.val
  | none => 0xFF

/-- A trigger field: a source, or NONE (0xFF). -/
def triggerCode : Option SourceNo → Byte
  | some i => byte i.val
  | none => 0xFF

/-- Source states. -/
def sourceStateCode : SourceState → Byte
  | .off => 0
  | .watch => 1
  | .raised _ => 2
  | .holdoff _ => 3

/-- Record kinds. -/
def kindCode : Kind → Byte
  | .rise => 1
  | .fall => 2
  | .active => 3
  | .rearm => 4
  | .internal => 5

/-- History outcomes. -/
def closeOutcomeCode : CloseOutcome → Byte
  | .serviced => 1
  | .dropped => 2

/-- Overflow policies. -/
def policyCode : Policy → Byte
  | .dropNew => 0
  | .dropOld => 1

/-- Action kinds. -/
def actionKindCode : ActionKind → Byte
  | .immediate => 0
  | .graced => 1
  | .manual => 2

/-- Action shapes. -/
def shapeCode : Shape → Byte
  | .level => 0
  | .pulse => 1

/-- Pulse widths. -/
def widthCode : PulseWidth → Byte
  | .ms1 => 0
  | .ms10 => 1
  | .ms100 => 2
  | .ms1000 => 3

/-- Action states. -/
def actionStateCode : ActionState → Byte
  | .idle => 0
  | .grace _ => 1
  | .fired _ _ => 2

/-- Fire causes. -/
def fireCauseCode : FireCause → Byte
  | .immediate => 1
  | .graceExpiry => 2
  | .request => 3

/-- The fire cause of a state; none (0) in IDLE and GRACE (R114). -/
def stateCauseCode : ActionState → Byte
  | .fired c _ => fireCauseCode c
  | .idle => 0
  | .grace _ => 0

/-- Outcomes carried in ACTION-ENDED. -/
def graceOutcomeCode : GraceOutcome → Byte
  | .fired => 1
  | .cancelled => 2

/-- Action notice flags. -/
def actionNoticeCode : ActionNotice → Byte
  | .none => 0
  | .pending => 1
  | .ended => 2

/-- Session states. -/
def sessionCode : Session → Byte
  | .closed => 0
  | .up => 1
  | .enteringDormant => 2
  | .dormant => 3

/-- Reset causes (R160). -/
def resetCauseCode : ResetCause → Byte
  | .powerOn => 1
  | .pin => 2
  | .soft => 3
  | .linkBreak => 4

/-! ## Range checks: a field's byte as a value, or the result that refuses it -/

/-- A field that is 0 or 1. -/
def readFlag (b : Byte) : Except Result Bool :=
  if b = 0 then .ok false else if b = 1 then .ok true else .error .badValue

/-- A field with an inclusive range. -/
def readRange (low high : Nat) (b : Byte) : Except Result Nat :=
  if low ≤ b.toNat ∧ b.toNat ≤ high then .ok b.toNat else .error .badValue

/-- A source number: 56 or above is BAD_SOURCE (R18, R21). -/
def readSource (b : Byte) : Except Result SourceNo :=
  if h : b.toNat < 56 then .ok ⟨b.toNat, h⟩ else .error .badSource

/-- A route number: 8 or above is BAD_ROUTE (R59, R63, R81, R89, R99, R103). -/
def readRoute (b : Byte) : Except Result RouteNo :=
  if h : b.toNat < 8 then .ok ⟨b.toNat, h⟩ else .error .badRoute

/-- A route field of a source: 0 to 7 or NONE; 8 to 254 is BAD_ROUTE (R18). -/
def readRouteOrNone (b : Byte) : Except Result (Option RouteNo) :=
  if b = 0xFF then .ok none else (readRoute b).map some

/-- An output number: above 15 is BAD_VALUE (R125, R127 to R130). -/
def readOutput (b : Byte) : Except Result ActionNo :=
  if h : b.toNat < 16 then .ok ⟨b.toNat, h⟩ else .error .badValue

/-- The mode of a line source: 0 to 5 (R18). -/
def readLineMode (b : Byte) : Except Result Mode :=
  match b.toNat with
  | 0 => .ok .off
  | 1 => .ok .rise
  | 2 => .ok .fall
  | 3 => .ok .both
  | 4 => .ok .high
  | 5 => .ok .low
  | _ => .error .badValue

/-- The mode of an internal source: 0 or 6 (R18). -/
def readInternalMode (b : Byte) : Except Result Mode :=
  match b.toNat with
  | 0 => .ok .off
  | 6 => .ok .on
  | _ => .error .badValue

/-- The filter of a line source: 0 to 4 (R18). -/
def readLineFilter (b : Byte) : Except Result FilterSetting :=
  match b.toNat with
  | 0 => .ok .none
  | 1 => .ok .ms1
  | 2 => .ok .ms4
  | 3 => .ok .ms16
  | 4 => .ok .ms64
  | _ => .error .badValue

/-- The six fields of SOURCE-SET, checked in the order they stand (R18). -/
def readSourceSet (source mode filter route coalesce holdoff : Byte) : Except Result (SourceNo × SourceConfig) := do
  let i ← readSource source
  if i.val < 48 then
    let m ← readLineMode mode
    let f ← readLineFilter filter
    let r ← readRouteOrNone route
    let c ← readFlag coalesce
    return (i, { mode := m, filter := f, route := r, coalesce := c, holdoff := holdoff.toNat })
  else
    let m ← readInternalMode mode
    let _ ← readRange 0 0 filter
    let r ← readRouteOrNone route
    let _ ← readRange 1 1 coalesce
    let _ ← readRange 0 0 holdoff
    return (i, { mode := m, filter := .none, route := r, coalesce := true, holdoff := 0 })

/-- An overflow policy (R59). -/
def readPolicy (b : Byte) : Except Result Policy :=
  (readFlag b).map fun old => if old then .dropOld else .dropNew

/-- The ten configuration fields of ROUTE-SET, checked in the order they stand (R59). -/
def readRouteConfig (priority depth policy batchMax timeout retries wake failover takeover masked : Byte) :
    Except Result RouteConfig := do
  let pr ← readRange 0 3 priority
  let d ← readRange 1 64 depth
  let po ← readPolicy policy
  let bm ← readRange 1 16 batchMax
  let re ← readRange 0 7 retries
  let w ← readFlag wake
  let fo ← readFlag failover
  let t ← readFlag takeover
  let m ← readFlag masked
  return { priority := pr, depth := d, policy := po, batchMax := bm, serviceTimeout := timeout.toNat, retries := re,
           wake := w, failover := fo, takeover := t, masked := m }

/-- A trigger: 53 is BAD_TRIGGER, 56 to 254 is BAD_SOURCE (R129). -/
def readTrigger (b : Byte) : Except Result (Option SourceNo) :=
  if b = 0xFF then .ok none
  else if b = 53 then .error .badTrigger
  else (readSource b).map some

/-- The kind of an action beside its trigger: above 2 is BAD_VALUE, MANUAL with a trigger is BAD_TRIGGER (R129). -/
def readActionKind (trigger : Option SourceNo) (b : Byte) : Except Result ActionKind :=
  match b.toNat with
  | 0 => .ok .immediate
  | 1 => .ok .graced
  | 2 => if trigger = none then .ok .manual else .error .badTrigger
  | _ => .error .badValue

/-- A pulse width: above 3 is BAD_VALUE (R129). -/
def readWidth (b : Byte) : Except Result PulseWidth :=
  match b.toNat with
  | 0 => .ok .ms1
  | 1 => .ok .ms10
  | 2 => .ok .ms100
  | 3 => .ok .ms1000
  | _ => .error .badValue

/-- A shape (R129). -/
def readShape (b : Byte) : Except Result Shape :=
  (readFlag b).map fun p => if p then .pulse else .level

/-- The seven configuration fields of ACTION-SET, checked in the order they stand (R129). -/
def readActionConfig (trigger kind grace shape width polarity drive : Byte) : Except Result ActionConfig := do
  let t ← readTrigger trigger
  let k ← readActionKind t kind
  let g ← readRange 1 255 grace
  let s ← readShape shape
  let w ← readWidth width
  let p ← readFlag polarity
  let d ← readFlag drive
  return { trigger := t, kind := k, grace := g, shape := s, width := w, activeHigh := p, pushPull := d }

/-- The four parameters of OPEN, checked in the order they stand (R162). -/
def readParams (m0 m1 window silence retransmit : Byte) : Except Result Params :=
  let m := leNumber [m0, m1]
  if m < 64 ∨ 1024 < m then .error .badValue
  else do
    let w ← readRange 1 4 window
    let r ← readRange 1 255 retransmit
    return { maxPayload := m, window := w, silenceLimit := silence.toNat, retransmit := r }

end Sys2Proof.Machine
end

