-- ==== Sys2Proof/Machine/Ops.lean ====
section
/-! DEFINITION. Reading and changing the parts of State: tables, ports, timers, routes and their queues, the Event Store, the
History Ring, the outputs and WAKE#. Everything else goes through these. -/

namespace Sys2Proof.Machine

/-! ## Tables and ports -/

/-- Entry `i` of a table changed by `f`. -/
def Table.update {α : Type} {n : Nat} (t : Vector α n) (i : Fin n) (f : α → α) : Vector α n :=
  t.set i.val (f (t[i.val]'i.isLt)) i.isLt

/-- Every entry of a table changed by `f`. -/
def Table.map {α β : Type} {n : Nat} (t : Vector α n) (f : α → β) : Vector β n :=
  Vector.ofFn fun i => f (t[i.val]'i.isLt)

/-- The other port. -/
def otherPort : Port → Port
  | .A => .B
  | .B => .A

/-- The routes in ascending number. -/
def allRoutes : List RouteNo := [0, 1, 2, 3, 4, 5, 6, 7]

/-- The actions in ascending number. -/
def allActions : List ActionNo := [0, 1, 2, 3, 4, 5, 6, 7, 8, 9, 10, 11, 12, 13, 14, 15]

/-- A port's state. -/
def Ports.get (ps : Ports) : Port → PortState
  | .A => ps.a
  | .B => ps.b

/-- A port's state changed by `f`. -/
def Ports.update (ps : Ports) (p : Port) (f : PortState → PortState) : Ports :=
  match p with
  | .A => { ps with a := f ps.a }
  | .B => { ps with b := f ps.b }

/-- The state of line `i`. -/
def State.line (s : State) (i : LineNo) : Line := s.lines[i.val]

/-- Source entry `i`. -/
def State.source (s : State) (i : SourceNo) : Source := s.sources[i.val]

/-- Route entry `r`. -/
def State.route (s : State) (r : RouteNo) : Route := s.routes[r.val]

/-- Action entry `n`. -/
def State.action (s : State) (n : ActionNo) : Action := s.actions[n.val]

/-- The state of port `p`. -/
def State.port (s : State) (p : Port) : PortState := s.ports.get p

/-- Line `i` changed. -/
def State.updLine (i : LineNo) (f : Line → Line) (s : State) : State := { s with lines := Table.update s.lines i f }

/-- Source entry `i` changed. -/
def State.updSource (i : SourceNo) (f : Source → Source) (s : State) : State :=
  { s with sources := Table.update s.sources i f }

/-- Route entry `r` changed. -/
def State.updRoute (r : RouteNo) (f : Route → Route) (s : State) : State := { s with routes := Table.update s.routes r f }

/-- Action entry `n` changed. -/
def State.updAction (n : ActionNo) (f : Action → Action) (s : State) : State :=
  { s with actions := Table.update s.actions n f }

/-- Port `p` changed. -/
def State.updPort (p : Port) (f : PortState → PortState) (s : State) : State := { s with ports := s.ports.update p f }

/-- More items held by the Source Table, behind those it holds (R8). -/
def State.hold (items : List Held) (s : State) : State := { s with held := s.held ++ items }

/-! ## Durations and timers -/

/-- 1 ms in microseconds. -/
def ms : Nat := 1000

/-- A timer moves by one microsecond; it waits at its last microsecond for its expiry command (log 2). -/
def tickLeft (left : Nat) : Nat := if left ≤ 1 then 1 else left - 1

/-- The filter length N in samples (R2). -/
def filterLength : FilterSetting → Nat
  | .none => 1
  | .ms1 => 8
  | .ms4 => 32
  | .ms16 => 128
  | .ms64 => 512

/-- The pulse width in microseconds (R113). -/
def pulseTime : PulseWidth → Nat
  | .ms1 => 1 * ms
  | .ms10 => 10 * ms
  | .ms100 => 100 * ms
  | .ms1000 => 1000 * ms

/-! ## Records and queues -/

/-- A record that returns from OFFERED to PENDING takes the redelivered mark (R26). -/
def Rec.returned (x : Rec) : Rec :=
  match x.state with
  | .offered => { x with state := .pending, redelivered := true }
  | .pending => x

/-- A record becomes part of a batch (R72). -/
def Rec.offer (x : Rec) : Rec := { x with state := .offered }

/-- An occurrence folds into a PENDING record (R30). -/
def Rec.fold (o : Occurrence) (x : Rec) : Rec :=
  { x with
    count := if x.count < 255 then x.count + 1 else 255
    last := o.time
    detail := if o.kind = .internal then o.detail else x.detail }

/-- The record takes an occurrence of source `i` that folds: it is PENDING and of that source (R30). -/
def Rec.takes (i : SourceNo) (x : Rec) : Bool := x.state == .pending && x.source == i

/-- The newest record of the queue that takes the occurrence folds it: the record's sequence number and the queue after, or
none when no record takes it (R30). -/
def foldNewest (o : Occurrence) : List Rec → Option (Seq × List Rec)
  | [] => none
  | x :: xs =>
    match foldNewest o xs with
    | some (q, ys) => some (q, x :: ys)
    | none => if x.takes o.source then some (x.seq, x.fold o :: xs) else none

/-- The oldest PENDING record of a queue and the queue without it (R47). -/
def splitOldestPending : List Rec → Option (Rec × List Rec)
  | [] => none
  | x :: xs =>
    if x.state = .pending then some (x, xs) else (splitOldestPending xs).map fun yz => (yz.1, x :: yz.2)

/-- The `m` oldest PENDING records of a queue, oldest first, and the queue without them (R61). -/
def splitPending : Nat → List Rec → List Rec × List Rec
  | 0, q => ([], q)
  | _ + 1, [] => ([], [])
  | m + 1, x :: xs =>
    if x.state = .pending then
      let yz := splitPending m xs
      (x :: yz.1, yz.2)
    else
      let yz := splitPending (m + 1) xs
      (yz.1, x :: yz.2)

/-- Number of OFFERED records in a queue. -/
def offeredCount (q : List Rec) : Nat := (q.filter fun x => x.state == .offered).length

/-- Sum of the counts of records. -/
def countSum (q : List Rec) : Nat := (q.map Rec.count).foldl (· + ·) 0

/-! ## Routes -/

/-- The route states (R54). -/
inductive RouteState where
  | idle | ready | inService | stalled
  deriving DecidableEq, Repr

/-- The code of a route state (R54). -/
def RouteState.code : RouteState → Nat
  | .idle => 0
  | .ready => 1
  | .inService => 2
  | .stalled => 3

/-- The state of a route, decided by its queue and its stall mark (R54). -/
def Route.state (t : Route) : RouteState :=
  if t.stalled then .stalled
  else if t.queue.any fun x => x.state == .offered then .inService
  else if t.queue.isEmpty then .idle
  else .ready

/-- The lost tally grows, and saturates at 65 535 (R53). -/
def Route.lose (k : Nat) (t : Route) : Route := { t with lost := min (t.lost + k) Config.tallyMax }

/-- The current batch ends without SERVICE-DONE (R92): OFFERED records return marked, the tag is retired, the snapshot
dropped, the timer stopped, a due re-offer withdrawn. -/
def Route.returnBatch (t : Route) : Route :=
  { t with queue := t.queue.map Rec.returned, batch := none, timer := none }

/-- A change of owner (R95). -/
def Route.giveTo (owner : Option Port) (t : Route) : Route :=
  { t.returnBatch with stalled := false, owner := owner }

/-- The sequence number of the head record; 0 when the queue is empty (R63). -/
def Route.headSeq (t : Route) : Seq :=
  match t.queue with
  | [] => 0
  | x :: _ => x.seq

/-- Sequence numbers run from 1 to 4 294 967 295 (R27). -/
def seqCycle : Nat := 4294967295

/-- How far back a sequence number lies below the counter, counting round from 4 294 967 295 to 1: the greater, the earlier
the record was created (R46, R69). -/
def Store.age (st : Store) (q : Seq) : Nat := (st.nextSeq.toNat + seqCycle - q.toNat) % seqCycle

/-- The hold condition NO_OWNER (R57). -/
def State.noOwner (s : State) (r : RouteNo) : Bool := (s.route r).owner == none

/-- The hold condition OWNER_ABSENT (R57). -/
def State.ownerAbsent (s : State) (r : RouteNo) : Bool :=
  match (s.route r).owner with
  | none => false
  | some p => (s.port p).session != .up

/-- A route is eligible for a batch (R57). -/
def State.eligible (s : State) (r : RouteNo) : Bool :=
  (s.route r).state == .ready && !s.noOwner r && !s.ownerAbsent r && !(s.route r).cfg.masked

/-- A port owns a route that is IN_SERVICE (R169). -/
def State.servesFor (s : State) (p : Port) : Bool :=
  allRoutes.any fun r => (s.route r).owner == some p && (s.route r).state == .inService

/-! ## Event Store and History Ring -/

/-- The sequence counter advances, from 4 294 967 295 to 1 (R27). -/
def Seq.next (q : Seq) : Seq := if q = 4294967295#32 then 1 else q + 1

/-- A record is available to a source (R28): internal sources may draw on the reserve. -/
def Store.available (st : Store) (i : SourceNo) : Bool :=
  0 < st.freeGeneral || (48 ≤ i.val && 0 < st.freeReserve)

/-- A record is taken and the sequence counter advances (R27, R28, R33). -/
def Store.take (st : Store) : Store :=
  if 0 < st.freeGeneral then
    { st with
      freeGeneral := st.freeGeneral - 1
      lowArmed := st.lowArmed && !(st.freeGeneral == 17)
      nextSeq := Seq.next st.nextSeq }
  else { st with freeReserve := st.freeReserve - 1, nextSeq := Seq.next st.nextSeq }

/-- Taking a record from this store reports STORE_LOW: the threshold is armed and the free general count becomes 16 (R33). -/
def Store.takeReportsLow (st : Store) : Bool := st.lowArmed && st.freeGeneral == 17

/-- A record becomes FREE (R28), which may arm STORE_LOW again (R33). -/
def Store.free (st : Store) : Store :=
  if st.freeReserve < Config.reserveRecords then { st with freeReserve := st.freeReserve + 1 }
  else { st with freeGeneral := st.freeGeneral + 1, lowArmed := st.lowArmed || st.freeGeneral == 32 }

/-- A history entry is written (R39); a full ring loses its oldest entry. -/
def History.write (out : CloseOutcome) (time : Time) (x : Rec) (h : History) : History :=
  { entries :=
      (if h.entries.length < Config.historyEntries then h.entries else h.entries.drop 1) ++
        [{ closeNo := h.counter, seq := x.seq, source := x.source, kind := x.kind, count := x.count, outcome := out,
           first := x.first, closeTime := time }]
    counter := h.counter + 1 }

/-- A record that has left its queue closes: its history entry is written and it becomes FREE (R34). -/
def State.closeRecord (out : CloseOutcome) (time : Time) (s : State) (x : Rec) : State :=
  { s with history := s.history.write out time x, store := s.store.free }

/-- The close reports of records, in the order of closing (R34). -/
def closeReports (time : Time) (xs : List Rec) : List Held := xs.map fun x => .closeReport x.seq x.source time

/-- Records that have left their queue close as one event, oldest first, and their close reports are held (R34). -/
def State.closeAll (out : CloseOutcome) (time : Time) (xs : List Rec) (s : State) : State :=
  (xs.foldl (State.closeRecord out time) s).hold (closeReports time xs)

/-! ## Lines and level sources -/

/-- The filter length of a line is that of its line source's configuration (R1). -/
def State.lineN (s : State) (i : LineNo) : Nat := filterLength (s.source ⟨i.val, by omega⟩).cfg.filter

/-- A line whose count has reached N: its accepted change or settle report is due (R2, R3). -/
def State.lineDue (s : State) (i : LineNo) : Bool :=
  match (s.line i).filter with
  | .settled _ run => s.lineN i ≤ run
  | .unsettled _ count => s.lineN i ≤ count

/-- The lowest line with a change or settle report due at this sample instant (R2). -/
def State.firstDue (s : State) : Option LineNo := (List.ofFn fun i : LineNo => i).find? s.lineDue

/-- The level that makes a level source's line active (R4). -/
def activeLevel : Mode → Option Bool
  | .high => some true
  | .low => some false
  | .off => none
  | .rise => none
  | .fall => none
  | .both => none
  | .on => none

/-- The line of a line source. -/
def lineOf (i : SourceNo) : Option LineNo := if h : i.val < 48 then some ⟨i.val, h⟩ else none

/-- A level source's line is active (R4): it is settled and its filtered level is the active level. -/
def State.lineActive (s : State) (i : SourceNo) : Bool :=
  match lineOf i with
  | none => false
  | some l =>
    match (s.line l).filter, activeLevel (s.source i).cfg.mode with
    | .settled level _, some a => level == a
    | _, _ => false

/-! ## Output pins and WAKE# -/

/-- What an output pin does. -/
inductive Pin where
  | drivenLow | drivenHigh | highImpedance
  deriving DecidableEq, Repr

/-- The output of an action is active (R115). -/
def Action.active (a : Action) : Bool :=
  match a.state with
  | .fired _ _ => true
  | .idle => false
  | .grace _ => false

/-- What a pin carries for an output, by polarity and drive (R115): the high level is driven by a push-pull pin and left to
the external pull-up by an open-drain one. -/
def pinOf (activeHigh pushPull active : Bool) : Pin :=
  if active == activeHigh then (if pushPull then .drivenHigh else .highImpedance) else .drivenLow

/-- The pin of OUTn (R115, R131). -/
def State.outPin (s : State) (n : ActionNo) : Pin :=
  if s.hardReset.isSome then .highImpedance
  else
    let a := s.action n
    pinOf a.cfg.activeHigh a.cfg.pushPull a.active

/-- WAKE# of a port is asserted (R172). -/
def State.wake (s : State) (p : Port) : Bool :=
  (s.port p).session == .dormant &&
    ((allRoutes.any fun r =>
        (s.route r).owner == some p && (s.route r).cfg.wake && (s.route r).state == .ready && !(s.route r).cfg.masked) ||
      allActions.any fun n => (s.port p).actionNotices[n.val] == .pending)

/-- The WAKE# pin of a port: open drain (R172, R173). -/
def State.wakePin (s : State) (p : Port) : Pin :=
  if s.hardReset.isSome then .highImpedance else if s.wake p then .drivenLow else .highImpedance

/-- The transmit lines are held at mark while the part is held in hard reset (R173). -/
def State.txHeldAtMark (s : State) : Bool := s.hardReset.isSome

/-- The bit rate of both ports, in bit/s (R187). -/
def State.bitRate (s : State) : Nat :=
  match s.rate1, s.rate0 with
  | false, false => 115200
  | false, true => 460800
  | true, false => 1000000
  | true, true => 3000000

/-! ## The frame of every meaning -/

/-- A command acts on the part by `f`. While the part is held in hard reset nothing happens in it (R1, R36, R131, R173), so
the command leaves it as it is. -/
def taken (s : State) (f : State → State) : Host.Outcome State Fault Refusal :=
  .next (if s.hardReset.isSome then s else f s)

end Sys2Proof.Machine
end

