-- ==== Sys2Proof/Machine/Flags.lean ====
section
/-! DEFINITION. Every flag byte the part sends or keeps: report flags, route condition byte, NOTIFY flags, notice flags,
LINE-READ sets. -/

namespace Sys2Proof.Machine

/-- The INFO byte of an ACK frame from the part (R140, section 10.1); bit 7 is 0. -/
def ReportFlags.info (f : ReportFlags) : Byte :=
  byte (bitNumber [f.headerBad, f.payloadBad, f.outOfOrder, f.tooLong, f.unknownType, f.windowExceeded, f.rxFull])

/-- An agent's ACK frame carries report flags: any of bits 0 to 6 of its INFO is set (R152, R186). -/
def carriesFlags (info : Byte) : Bool := (info &&& 0x7F) != 0

/-- A flag is recorded; while the port is CLOSED none is (R140). -/
def PortState.record (set : ReportFlags → ReportFlags) (P : PortState) : PortState :=
  if P.session = .closed then P else { P with report := set P.report }

/-- The immediate ACK demand is set; while the port is CLOSED it is not (R140). -/
def PortState.demand (P : PortState) : PortState :=
  if P.session = .closed then P else { P with ackDemand := true }

/-- HEADER_BAD (R140). -/
def ReportFlags.setHeaderBad (f : ReportFlags) : ReportFlags := { f with headerBad := true }

/-- PAYLOAD_BAD (R140). -/
def ReportFlags.setPayloadBad (f : ReportFlags) : ReportFlags := { f with payloadBad := true }

/-- OUT_OF_ORDER (R140). -/
def ReportFlags.setOutOfOrder (f : ReportFlags) : ReportFlags := { f with outOfOrder := true }

/-- TOO_LONG (R140). -/
def ReportFlags.setTooLong (f : ReportFlags) : ReportFlags := { f with tooLong := true }

/-- UNKNOWN_TYPE (R140). -/
def ReportFlags.setUnknownType (f : ReportFlags) : ReportFlags := { f with unknownType := true }

/-- WINDOW_EXCEEDED (R140). -/
def ReportFlags.setWindowExceeded (f : ReportFlags) : ReportFlags := { f with windowExceeded := true }

/-- RX_FULL (R140). -/
def ReportFlags.setRxFull (f : ReportFlags) : ReportFlags := { f with rxFull := true }

/-- The route condition byte of ROUTE-GET, STATUS and ROUTE-GAINED (section 10.3): state in bits 0-1, NO_OWNER in bit 4,
OWNER_ABSENT in bit 5, MASKED in bit 6. -/
def State.routeCondition (s : State) (r : RouteNo) : Byte :=
  byte ((s.route r).state.code + 16 * (s.noOwner r).toNat + 32 * (s.ownerAbsent r).toNat +
    64 * (s.route r).cfg.masked.toNat)

/-- The flags byte of a NOTIFY (R74, section 10.4): bit 0 REPEAT, bit 1 REDELIVERED. -/
def notifyFlags (again : Bool) (entries : List Rec) : Byte :=
  byte (again.toNat + 2 * (entries.any Rec.redelivered).toNat)

/-- The notice flags byte of ACTION-GET (section 10.3): Port A in bits 0-1, Port B in bits 2-3. -/
def State.noticeByte (s : State) (n : ActionNo) : Byte :=
  byte ((actionNoticeCode (s.port .A).actionNotices[n.val]).toNat +
    4 * (actionNoticeCode (s.port .B).actionNotices[n.val]).toNat)

/-- The filtered level reported for a line: 0 while it is unsettled (R3, R22). -/
def Line.level (l : Line) : Bool :=
  match l.filter with
  | .settled level _ => level
  | .unsettled _ _ => false

/-- The settled mark of a line (R22). -/
def Line.isSettled (l : Line) : Bool :=
  match l.filter with
  | .settled _ _ => true
  | .unsettled _ _ => false

/-- The levels of LINE-READ, six bytes (section 10.3). -/
def State.levelBytes (s : State) : List Byte := leBytes 6 (bitNumber (s.lines.toList.map Line.level))

/-- The settled marks of LINE-READ, six bytes (section 10.3). -/
def State.settledBytes (s : State) : List Byte := leBytes 6 (bitNumber (s.lines.toList.map Line.isSettled))

end Sys2Proof.Machine
end

