-- ==== Sys2Proof/Machine/Handoff.lean ====
section
/-! DEFINITION. Handing occurrences on: the offer to the Event Store, the answer to the source, the Action Unit, and the
occurrences and close reports that follow (R7, R8, R11, R13, R29 to R34, R49 to R52, R116 to R123). -/

namespace Sys2Proof.Machine

/-! ## Internal sources -/

/-- SERVICE_TIMEOUT. -/
def srcServiceTimeout : SourceNo := 48

/-- STORE_LOW. -/
def srcStoreLow : SourceNo := 49

/-- ROUTE_OVERFLOW. -/
def srcRouteOverflow : SourceNo := 50

/-- LINK_A_DOWN and LINK_B_DOWN. -/
def srcLinkDown : Port → SourceNo
  | .A => 51
  | .B => 52

/-- ACTION_FIRED. -/
def srcActionFired : SourceNo := 53

/-- ROUTE_FAILOVER. -/
def srcRouteFailover : SourceNo := 54

/-- CONFIG_CHANGED. -/
def srcConfigChanged : SourceNo := 55

/-- A detail of two parts: low byte and high byte (R16). -/
def detailOf (low high : Nat) : Half := BitVec.ofNat 16 (low + 256 * high)

/-- A block reports a condition to the Source Table (R15, R16). An internal source that is ON has an occurrence, which is
held behind those already held (R8); a source that is OFF has none (R9). -/
def State.raise (i : SourceNo) (detail : Half) (s : State) : State :=
  if (s.source i).state = .off then s
  else
    s.hold [.occurrence { source := i, kind := .internal, detail := detail, time := s.timebase,
                          route := (s.source i).cfg.route, coalesce := true }]

/-! ## The offer to the Event Store -/

/-- The answer to a source (R7, R11). -/
inductive Answer where
  | new (seq : Seq)
  | coalesced (seq : Seq)
  | lost
  | routeNone
  deriving DecidableEq, Repr

/-- The record created for an occurrence (R25, R32). -/
def newRec (o : Occurrence) (r : RouteNo) (q : Seq) : Rec :=
  { seq := q, source := o.source, kind := o.kind, count := 1, detail := o.detail, first := o.time, last := o.time, route := r,
    state := .pending, redelivered := false }

/-- The Route Table is asked for room for one more record (R48). A full route applies its policy (R49 to R51) and reports
the overflow, but not to an occurrence of ROUTE_OVERFLOW itself (R52). The answer says whether there is room. -/
def makeRoom (o : Occurrence) (r : RouteNo) (s : State) : Bool × State :=
  let t := s.route r
  if t.queue.length < t.cfg.depth then (true, s)
  else
    let s1 := if o.source = srcRouteOverflow then s else s.raise srcRouteOverflow (detailOf r.val 0)
    match t.cfg.policy, splitOldestPending t.queue with
    | .dropOld, some (x, rest) =>
      (true, (s1.updRoute r fun u => Route.lose x.count { u with queue := rest }).closeAll .dropped s1.timebase [x])
    | _, _ => (false, s1.updRoute r (Route.lose 1))

/-- A record is taken, created and appended at the tail of the queue (R28, R32); STORE_LOW is reported when its threshold is
crossed (R33). -/
def createRec (o : Occurrence) (r : RouteNo) (s : State) : State :=
  let s1 := { s.updRoute r (fun t => { t with queue := t.queue ++ [newRec o r s.store.nextSeq] }) with store := s.store.take }
  if s.store.takeReportsLow then s1.raise srcStoreLow (detailOf s.store.take.freeGeneral 0) else s1

/-- The Event Store handles an offer (R29): coalescing, availability, room, creation. -/
def offer (o : Occurrence) (r : RouteNo) (s : State) : Answer × State :=
  match if o.coalesce then foldNewest o (s.route r).queue else none with
  | some (q, queue) => (.coalesced q, s.updRoute r fun t => { t with queue := queue })
  | none =>
    if s.store.available o.source then
      match makeRoom o r s with
      | (true, s1) => (.new s1.store.nextSeq, createRec o r s1)
      | (false, s1) => (.lost, s1)
    else (.lost, s.updRoute r (Route.lose 1))

/-- The next state of a level source after an ACTIVE or REARM occurrence (R11). -/
def answeredState (holdoff : Nat) : Answer → SourceState
  | .new q => .raised (some q)
  | .coalesced q => .raised (some q)
  | .lost => .holdoff (if holdoff = 0 then 10 * ms else holdoff * (10 * ms))
  | .routeNone => .raised none

/-- The answer reaches the source; it matters in the level modes alone (R7, R10, R11). -/
def answerSource (o : Occurrence) (a : Answer) (s : State) : State :=
  if o.kind = .active ∨ o.kind = .rearm then
    s.updSource o.source fun t => { t with state := answeredState t.cfg.holdoff a }
  else s

/-! ## The Action Unit -/

/-- An action enters FIRED (R123): its output goes active, the cause is recorded, a PULSE action starts its pulse timer, and
ACTION_FIRED is reported. -/
def fire (n : ActionNo) (cause : FireCause) (s : State) : State :=
  (s.updAction n fun a =>
    { a with state := .fired cause (if a.cfg.shape = .pulse then some (pulseTime a.cfg.width) else none) }).raise
    srcActionFired (detailOf n.val (fireCauseCode cause).toNat)

/-- The grace number advances, from 255 to 1 (R114). -/
def nextGraceNo (g : Byte) : Byte := if g = 255 then 1 else g + 1

/-- A port hears that action `n` has entered GRACE (R118, R120): its told mark is cleared, and it is flagged while it is not
CLOSED. -/
def PortState.hearGrace (n : ActionNo) (P : PortState) : PortState :=
  { P with
    told := P.told.set n.val false
    actionNotices := if P.session = .closed then P.actionNotices else P.actionNotices.set n.val .pending }

/-- A GRACED action enters GRACE (R118, R120). -/
def enterGrace (n : ActionNo) (s : State) : State :=
  (((s.updAction n fun a =>
    { a with state := .grace (a.cfg.grace * (100 * ms)), graceNo := nextGraceNo a.graceNo }).updPort .A
      (PortState.hearGrace n)).updPort .B (PortState.hearGrace n))

/-- One action is informed of an occurrence of source `i` (R116 to R118). -/
def informAction (i : SourceNo) (s : State) (n : ActionNo) : State :=
  if (s.action n).cfg.trigger = some i ∧ (s.action n).state = .idle then
    match (s.action n).cfg.kind with
    | .immediate => fire n .immediate s
    | .graced => enterGrace n s
    | .manual => s
  else s

/-- The Action Unit is informed: every action whose trigger is the source, in ascending number (R116). -/
def informActions (i : SourceNo) (s : State) : State := allActions.foldl (informAction i) s

/-! ## Handing on -/

/-- An occurrence is handed on (R7): to the Event Store unless its route is NONE, then to the Action Unit. -/
def handOn (o : Occurrence) (s : State) : State :=
  let answered :=
    match o.route with
    | none => (Answer.routeNone, s)
    | some r => offer o r s
  informActions o.source (answerSource o answered.1 answered.2)

/-- A line source has an occurrence of this kind, stamped with this time, on the route of its configuration (R7). It is handed
on at once, before anything that a chain of hand-offs cut short has left held: R8 bounds no chain, so which of the two goes
first is the model's choice (log 8). -/
def occur (i : SourceNo) (kind : Kind) (time : Time) (s : State) : State :=
  handOn { source := i, kind := kind, detail := 0, time := time, route := (s.source i).cfg.route,
           coalesce := (s.source i).cfg.coalesce } s

/-- A close report reaches its source (R13). -/
def takeCloseReport (q : Seq) (i : SourceNo) (time : Time) (s : State) : State :=
  if (s.source i).state = .raised (some q) then
    if s.lineActive i then
      if (s.source i).cfg.holdoff = 0 then occur i .rearm time (s.updSource i fun t => { t with state := .raised none })
      else s.updSource i fun t => { t with state := .holdoff (t.cfg.holdoff * (10 * ms)) }
    else s.updSource i fun t => { t with state := .watch }
  else s

/-- One held item is handed on. -/
def handHeld (h : Held) (s : State) : State :=
  match h with
  | .occurrence o => handOn o s
  | .closeReport q i time => takeCloseReport q i time s

/-- At most `k` held items are handed on, oldest first, and with them those raised meanwhile (R8). -/
def handSome : Nat → State → State
  | 0, s => s
  | k + 1, s =>
    match s.held with
    | [] => s
    | h :: rest => handSome k (handHeld h { s with held := rest })

/-- The Source Table hands on what it holds (R8, R34). Irreducible, so that no proof unfolds its 4096 hand-offs unasked. -/
@[irreducible] def handOnHeld (s : State) : State := handSome Config.handOffs s

end Sys2Proof.Machine
end

