-- ==== Sys2Proof/Machine/Outputs.lean ====
section
/-! DEFINITION. The end of a grace and of a pulse: GRACE_EXPIRY and PULSE_EXPIRY (R119, R121, R124). -/

namespace Sys2Proof.Machine

/-- A port hears that the grace of action `n` has ended (R121): a told port is flagged ACTION-ENDED and its mark cleared; an
ACTION-PENDING flag not yet sent is cleared. -/
def PortState.hearGraceEnd (n : ActionNo) (P : PortState) : PortState :=
  if P.told[n.val] then
    { P with told := P.told.set n.val false, actionNotices := P.actionNotices.set n.val .ended }
  else if P.actionNotices[n.val] = .pending then { P with actionNotices := P.actionNotices.set n.val .none }
  else P

/-- A grace ends by expiry, SET-OUTPUT or CANCEL-ACTION (R121): the grace end is recorded and each port hears of it. The
action's next state is the caller's. -/
def endGrace (n : ActionNo) (outcome : GraceOutcome) (endedBy : Option Port) (s : State) : State :=
  ((s.updAction n fun a => { a with graceEnd := some { outcome := outcome, endedBy := endedBy } }).updPort .A
    (PortState.hearGraceEnd n)).updPort .B (PortState.hearGraceEnd n)

/-- A grace timer expires (R119): the action fires. -/
def graceExpires (n : ActionNo) (s : State) : State :=
  match (s.action n).state with
  | .grace _ => handOnHeld (fire n .graceExpiry (endGrace n .fired none s))
  | .idle => s
  | .fired _ _ => s

/-- GRACE_EXPIRY (R119): an action that is not in GRACE has no expiry. -/
def execGraceExpiry (n : ActionNo) (s : State) : Host.Outcome State Fault Refusal := taken s (graceExpires n)

/-- A pulse timer expires (R124): the action returns to IDLE. -/
def pulseExpires (n : ActionNo) (s : State) : State :=
  match (s.action n).state with
  | .fired _ (some _) => s.updAction n fun a => { a with state := .idle }
  | .fired _ none => s
  | .idle => s
  | .grace _ => s

/-- PULSE_EXPIRY (R124): an action whose pulse timer does not run has no expiry. -/
def execPulseExpiry (n : ActionNo) (s : State) : Host.Outcome State Fault Refusal := taken s (pulseExpires n)

end Sys2Proof.Machine
end

