-- ==== Sys2Proof/Machine/Crc.lean ====
section
/-! DEFINITION. The two frame checks (R134) and the bytes of a frame (R133, section 10.1). -/

namespace Sys2Proof.Machine

/-- `n` bit steps of a CRC register of width `w`, most significant bit first. -/
def crcBits {w : Nat} (poly : BitVec w) : Nat → BitVec w → BitVec w
  | 0, r => r
  | n + 1, r => crcBits poly n (if r.msb then (r <<< 1) ^^^ poly else r <<< 1)

/-- HCHK (R134): polynomial 0x07, start 0x00, no reflection, no final XOR. -/
def crc8 (bytes : List Byte) : Byte :=
  bytes.foldl (fun r b => crcBits 0x07#8 8 (r ^^^ b)) 0x00#8

/-- The payload check (R134): polynomial 0x1021, start 0xFFFF, no reflection, no final XOR. -/
def crc16 (bytes : List Byte) : Half :=
  bytes.foldl (fun (r : Half) (b : Byte) => crcBits 0x1021#16 8 (r ^^^ (b.setWidth 16 <<< 8))) 0xFFFF#16

/-- SYNC (R133). -/
def syncByte : Byte := 0xB4

/-- The TYPE code of a frame (R133). -/
def frameTypeCode : FrameType → Byte
  | .data => 0x01
  | .ack => 0x02
  | .announce => 0x03

/-- The frame type that a TYPE byte names, where it is a known one (R137). -/
def frameTypeOf (b : Byte) : Option FrameType :=
  if b = 0x01 then some .data else if b = 0x02 then some .ack else if b = 0x03 then some .announce else none

/-- The six header bytes before HCHK (R133). -/
def headerBytes (t : FrameType) (seq info : Byte) (len : Nat) : List Byte :=
  [syncByte, frameTypeCode t, seq, info] ++ leBytes 2 len

/-- The bytes of a frame as it goes out (R133, R134): header, HCHK, and for LEN above 0 the payload and its check. -/
def Frame.bytes (f : Frame) : List Byte :=
  let h := headerBytes f.ftype f.seq f.info f.payload.length
  h ++ [crc8 h] ++ (if f.payload = [] then [] else f.payload ++ leBytes 2 (crc16 f.payload).toNat)

end Sys2Proof.Machine
end

