-- ==== Sys2Proof/Machine/Session.lean ====
section
/-! DEFINITION. How sessions end and what a soft reset does: orderly ends, session loss with failover, the pending soft reset
(R105 to R107, R156, R165 to R168, R173, R184, R185). -/

namespace Sys2Proof.Machine

/-! ## The end of a session in the Link Port and the Delivery Scheduler -/

/-- A frame still being transmitted when its session ends goes to its end, but belongs to no session any more (R158). -/
def Transmission.orphan (t : Transmission) : Transmission := { t with live := false }

/-- The port enters CLOSED (R156, R165, R168): delivery state, backlog, accepted requests, flags and told marks cleared; the
receiver, E, the send sequence, the session number, the reset cause, a pending soft reset and the mark of a frame heard at this
moment are left (log 21, log 31). An OPEN that a
CLOSED port has accepted and not yet taken is discarded with the accepted requests at a link break or a soft reset; the rules
speak of requests of a session that ends alone, so this is the model's choice (log 27). -/
def PortState.closed (schedule : Schedule) (P : PortState) : PortState :=
  { P with
    report := .clear, ackOwed := .clear, ackDemand := false, window := [], retransmit := none, expiryNow := .byTimer,
    attempts := 0, round := [], roundsDue := 0, params := .fallback, tx := P.tx.map Transmission.orphan, session := .closed, closing := false,
    refusing := false, silence := none, announce := schedule, accepted := [], backlog := [],
    routeNotices := Vector.replicate 8 .none, actionNotices := Vector.replicate 16 .none,
    told := Vector.replicate 16 false, resetTimer := none }

/-- The Route Table returns the batches of the routes a port owns (R105). -/
def returnBatches (p : Port) (s : State) : State :=
  { s with routes := Table.map s.routes fun t => if t.owner = some p then t.returnBatch else t }

/-! ## Soft reset -/

/-- A source after a soft reset (R24). -/
def Source.rebuilt (t : Source) : Source := { t with state := if t.cfg.mode = .off then .off else .watch }

/-- The Event Store after a soft reset (R35): the sequence counter is kept. -/
def Store.emptied (st : Store) : Store := { Store.initial with nextSeq := st.nextSeq }

/-- A route after a soft reset (R65): configuration, owner and tag counter are kept. -/
def Route.emptied (t : Route) : Route :=
  { t with queue := [], stalled := false, lost := 0, batch := none, timer := none }

/-- An action after a soft reset (R132). -/
def Action.softReset (a : Action) : Action :=
  match a.state with
  | .idle => a
  | .grace _ => { a with state := .idle }
  | .fired cause _ =>
    match a.cfg.shape with
    | .level => { a with state := .fired cause none }
    | .pulse => { a with state := .idle }

/-- The ANNOUNCE schedule after a soft reset: due at once (R173), but suspended while it is suspended by a break whose line
has not returned to mark (R158; log 15). -/
def Schedule.afterSoftReset : Schedule → Schedule
  | .suspended => .suspended
  | .stopped => .due
  | .due => .due
  | .waiting _ => .due

/-- A port after a soft reset (R156, R173): the break detector, the session number, E and the send sequence are left. -/
def PortState.softReset (P : PortState) : PortState :=
  { P.closed P.announce.afterSoftReset with receiver := .hunt, cause := .soft, resetPending := false }

/-- The soft reset, in one event (R185). -/
def softReset (s : State) : State :=
  { s with
    lines := Table.map s.lines fun l => Line.restarted l.raw
    sources := Table.map s.sources Source.rebuilt
    held := []
    store := s.store.emptied
    history := { s.history with entries := [] }
    routes := Table.map s.routes Route.emptied
    actions := Table.map s.actions Action.softReset
    ports := { a := s.ports.a.softReset, b := s.ports.b.softReset } }

/-- A soft reset pending for a port takes place (R184). -/
def resetIfPending (p : Port) (s : State) : State := if (s.port p).resetPending then softReset s else s

/-! ## Orderly end and loss -/

/-- An orderly end of a port's session (R105, R156, R165, R166) that leaves the ANNOUNCE schedule so, and then the soft reset
that its end releases (R184). The return to CLOSED of a port that is UP only to deliver a refused OPEN goes the same way. R164
gives such a port no session, so it is the model's choice that this return, by acknowledgement, retry limit or link break,
releases a soft reset that a DEVICE-RESET taken meanwhile has made pending, and with it empties the queues (R65, R66; log 28). -/
def endOrderly (schedule : Schedule) (p : Port) (s : State) : State :=
  resetIfPending p (returnBatches p (s.updPort p (PortState.closed schedule)))

/-- An orderly end after which the ANNOUNCE schedule falls due at once (R158, R166). -/
def orderlyEnd (p : Port) (s : State) : State := endOrderly .due p s

/-- The route of a lost port passes to the other port (R106). -/
def State.failsOver (p : Port) (s : State) (r : RouteNo) : Bool :=
  (s.route r).owner == some p && (s.route r).cfg.failover && (s.port (otherPort p)).session == .up

/-- A route fails over to a port (R107): the effects of a change of owner, and a ROUTE-GAINED flag for the new owner. -/
def failOver (owner : Port) (s : State) (r : RouteNo) : State :=
  (s.updRoute r (Route.giveTo (some owner))).updPort owner fun P =>
    { P with routeNotices := P.routeNotices.set r.val .gained }

/-- Causes of a session loss (R168). -/
inductive LossCause where
  | silence | retryLimit | linkBreak
  deriving DecidableEq, Repr

/-- The code of a loss cause (R168). -/
def LossCause.code : LossCause → Nat
  | .silence => 1
  | .retryLimit => 2
  | .linkBreak => 3

/-- The ROUTE_FAILOVER conditions of a loss, in ascending route number (R107). -/
def failoverConditions (owner : Port) (moved : List RouteNo) : List (SourceNo × Half) :=
  moved.map fun r => (srcRouteFailover, detailOf r.val (portCode owner).toNat)

/-- The conditions of a loss: LINK_x_DOWN stands at the place `at_` among the ROUTE_FAILOVER conditions (R107, R168). -/
def lossConditions (p : Port) (cause : LossCause) (moved : List RouteNo) (place : Nat) : List (SourceNo × Half) :=
  let fs := failoverConditions (otherPort p) moved
  fs.take place ++ (srcLinkDown p, detailOf cause.code 0) :: fs.drop place

/-- Where LINK_x_DOWN stands: a free value where routes fail over (log 7); with none there is one place alone. -/
def linkDownAt (s : State) (moved : List RouteNo) : Nat :=
  match moved with
  | [] => 0
  | r :: rs => Config.linkDownPlace s.arrivals % ((r :: rs).length + 1)

/-- The blocks hear of a session loss (R168): the port is CLOSED, its batches return (R105), failover is decided for each of
its routes (R106, R107), and the conditions are raised. -/
def loseSession (p : Port) (cause : LossCause) (schedule : Schedule) (s : State) : State :=
  let s1 := returnBatches p (s.updPort p (PortState.closed schedule))
  let moved := allRoutes.filter (s1.failsOver p)
  let s2 := moved.foldl (failOver (otherPort p)) s1
  let s3 := (lossConditions p cause moved (linkDownAt s moved)).foldl (fun u c => u.raise c.1 c.2) s2
  { s3 with arrivals := s.arrivals + 1 }

/-- A session loss as a whole step: the occurrences are handed on, and then the soft reset that the end of the session
releases takes place (R184; log 14). -/
def sessionLoss (p : Port) (cause : LossCause) (schedule : Schedule) (s : State) : State :=
  resetIfPending p (handOnHeld (loseSession p cause schedule s))

/-- The port has a session (R157): it is not CLOSED, and not UP only to deliver a refused OPEN (R164; log 12). -/
def PortState.hasSession (P : PortState) : Bool := P.session != .closed && !P.refusing

/-- The retry limit is reached (R154): a refused OPEN and an orderly close end without a loss (R164, R166), any other session
is lost. -/
def retryLimitReached (p : Port) (s : State) : State :=
  if (s.port p).refusing ∨ (s.port p).closing then orderlyEnd p s else sessionLoss p .retryLimit .due s

end Sys2Proof.Machine
end

