-- ==== Sys2Proof/Machine/Link.lean ====
section
/-! DEFINITION. Shared operations of the Link Ports: placing, acknowledgements, retransmission rounds, valid frames, dormancy
(R138 to R155, R167, R170, R171). -/

namespace Sys2Proof.Machine

/-! ## Timers of a port -/

/-- The retransmit timeout in microseconds (R150). -/
def Params.retransmitTime (q : Params) : Nat := q.retransmit * (10 * ms)

/-- The silence timer started for the full limit, where it runs (R162, R167): in UP and ENTERING_DORMANT, with a limit and
without the closing mark. -/
def PortState.listen (P : PortState) : PortState :=
  if (P.session = .up ∨ P.session = .enteringDormant) ∧ P.params.silenceLimit ≠ 0 ∧ P.closing = false then
    { P with silence := some (P.params.silenceLimit * (100 * ms)) }
  else P

/-- A valid frame reaches the session layer (R138, R167, R171): it restarts the silence timer and returns a DORMANT port to
UP. An expiry of the silence timer taken with it, but after it, does not happen (R167; log 31). -/
def PortState.hearFrame (P : PortState) : PortState :=
  PortState.listen { P with session := if P.session = .dormant then .up else P.session, heardNow := true }

/-- The cumulative acknowledgement number of the part, E − 1 (R133, R146). -/
def PortState.ackNo (P : PortState) : Byte := P.expected - 1

/-! ## Placing (R148) -/

/-- A message is placed in a DATA frame: it takes the send sequence number and joins the send window. -/
def PortState.place (message : List Byte) (role : Role) (P : PortState) : PortState :=
  { P with
    sendSeq := P.sendSeq + 1
    window := P.window ++ [{ seq := P.sendSeq, message := message, role := role, sent := .waiting }] }

/-! ## Entering DORMANT (R170) -/

/-- What R170 asks of a port in ENTERING_DORMANT. A place held for a request not yet taken counts as a reply to come
(R179; log 16). -/
def PortState.quiet (P : PortState) : Bool :=
  P.session == .enteringDormant && P.window.isEmpty && P.backlog.isEmpty && P.accepted.isEmpty && P.ackOwed == .clear &&
    !P.ackDemand

/-- The test of R170, made whenever one of its parts changes. -/
def PortState.fallAsleep (P : PortState) : PortState :=
  if P.quiet then { P with session := .dormant, silence := none, retransmit := none } else P

/-! ## Acknowledgements (R149) -/

/-- The frames of a window that an acknowledgement number names, with those before it, and the frames left; none when the
number names no frame of the window. -/
def splitWindow (a : Byte) : List Slot → Option (List Slot × List Slot)
  | [] => none
  | w :: ws =>
    if w.seq = a then some ([w], ws) else (splitWindow a ws).map fun yz => (w :: yz.1, yz.2)

/-- The window after an acknowledgement (R149, R150): the attempt count returns to 0, the retransmit timer restarts for the
new oldest frame if that has gone out and otherwise waits for its end, and acknowledged frames leave the round. The rules do not
say what becomes of a round that still waits behind the one in progress when frames remain: it is the model's choice that it is
still made, with the frames then in the window, and that the attempt count at 0 does not count it again (log 11). An expiry of
the timer taken with the acknowledgement, but after it, does not happen (R153; log 31). -/
def PortState.ackWindow (rest : List Slot) (P : PortState) : PortState :=
  { P with
    window := rest
    attempts := 0
    retransmit :=
      match rest with
      | [] => none
      | w :: _ => if w.sent = .sent then some P.params.retransmitTime else none
    expiryNow := .precluded
    round := P.round.filter fun q => rest.any fun w => w.seq == q
    roundsDue := if rest.isEmpty then 0 else P.roundsDue }

/-- The Route Table hears that the frame of a NOTIFY is acknowledged (R76). Only the latest offer of the current batch starts
the service timer. -/
def Route.offerAcked (p : Port) (tag seq : Byte) (t : Route) : Route :=
  match t.batch with
  | none => t
  | some b =>
    if t.owner = some p ∧ b.tag = tag ∧ b.frame = seq ∧ b.phase = .awaitingAck then
      if t.cfg.serviceTimeout = 0 then { t with batch := some { b with phase := .untimed }, timer := none }
      else
        { t with batch := some { b with phase := .timing }, timer := some (t.cfg.serviceTimeout * (100 * ms)) }
    else t

/-- The Link Port reports the acknowledgement of a message to the block that waits for it (R149). -/
def reportAcked (p : Port) (s : State) (w : Slot) : State :=
  match w.role with
  | .plain => s
  | .close => if (s.port p).session ≠ .closed ∧ (s.port p).closing = true then orderlyEnd p s else s
  | .refusedOpen => if (s.port p).refusing then orderlyEnd p s else s
  | .deviceReset => resetIfPending p s
  | .notify r tag => s.updRoute r (Route.offerAcked p tag w.seq)

/-- An acknowledgement number from the agent is applied to the send window (R149). -/
def applyAck (p : Port) (a : Byte) (s : State) : State :=
  match splitWindow a (s.port p).window with
  | none => s
  | some (acked, rest) =>
    (acked.foldl (reportAcked p) (s.updPort p (PortState.ackWindow rest))).updPort p PortState.fallAsleep

/-! ## Retransmission rounds (R151, R152, R154) -/

/-- A retransmission round: the attempt count rises and every frame of the window is to be sent again, behind a round still
in progress. -/
def PortState.addRound (P : PortState) : PortState :=
  if P.round.isEmpty then { P with attempts := P.attempts + 1, round := P.window.map Slot.seq }
  else { P with attempts := P.attempts + 1, roundsDue := P.roundsDue + 1 }

/-- A round is called for (R151, R154). -/
def callRound (p : Port) (s : State) : State :=
  if (s.port p).attempts < Config.retryLimit then s.updPort p PortState.addRound else retryLimitReached p s

/-- An expiry of the retransmit timer can come now (R150, R153). -/
def PortState.mayExpire (P : PortState) : Bool :=
  match P.expiryNow with
  | .byTimer => P.retransmit.isSome
  | .precluded => false
  | .joined => true

/-- An ACK frame with report flags has left frames (R153): an expiry that could have been taken before it can be taken after it,
and each makes its round. R153 says so "in either order", and also that an expiry taken after an acknowledgement does not happen.
It is the model's choice that this holds where the frame removed the oldest as well, whether or not the new oldest has been sent to
its end, and that the expiry of an acknowledgement without flags is the one that does not happen (log 31). -/
def PortState.joinExpiry (couldExpire : Bool) (P : PortState) : PortState :=
  { P with expiryNow := if couldExpire then .joined else P.expiryNow }

/-! ## The transmitter (R147) -/

/-- The transmitter is free to begin a frame: it sends one at a time, and a frame that has begun is sent to its end, which
FRAME_TRANSMIT_END brings for a frame of every type (R147, R158; log 10). -/
def PortState.txFree (P : PortState) : Bool := P.tx.isNone

/-- The port may begin ACK and DATA frames (R147): its session state is neither CLOSED nor DORMANT. -/
def PortState.mayTransmit (P : PortState) : Bool := P.session == .up || P.session == .enteringDormant

/-- An ACK frame is ready to go (R147). -/
def PortState.ackReady (P : PortState) : Bool := P.ackDemand || P.ackOwed == .due

/-- The round in progress and the rounds behind it, with the next round begun when the one before it is over (R152). -/
def PortState.roundNow (P : PortState) : List Byte × Nat :=
  if P.round.isEmpty ∧ 0 < P.roundsDue then (P.window.map Slot.seq, P.roundsDue - 1) else (P.round, P.roundsDue)

/-- The DATA frame the transmitter takes next (R147): the next of a round, else the oldest that has not begun. -/
def PortState.nextData (P : PortState) : Option Slot :=
  match P.roundNow.1 with
  | q :: _ => P.window.find? fun w => w.seq == q
  | [] => P.window.find? fun w => w.sent == .waiting

/-- A frame of the window begins transmission: one that has never begun is now being sent. -/
def Slot.begin (q : Byte) (w : Slot) : Slot :=
  if w.seq = q ∧ w.sent = .waiting then { w with sent := .sending } else w

/-- A frame of the window has been transmitted to its end. -/
def Slot.finish (q : Byte) (w : Slot) : Slot := if w.seq = q then { w with sent := .sent } else w

/-! ## Frames from the agent -/

/-- The receiver of a port takes what a command brings. While a reported break stands, the line stays at space and the receiver
finds no byte, header or frame in it (R155), so the command leaves the part as it is. -/
def received (p : Port) (s : State) (f : State → State) : Host.Outcome State Fault Refusal :=
  taken s fun s => if (s.port p).breakReported then s else f s

/-- The receiver completes this frame now (R138): it has gathered the frame's header, or it is in HUNT, where the command
stands for the whole frame (log 3). -/
def PortState.completes (t : FrameType) (seq info : Byte) (payload : List Byte) (P : PortState) : Bool :=
  payload.length ≤ Config.longestPayload &&
    match P.receiver with
    | .hunt => true
    | .payload header gathered =>
      header.take 6 == headerBytes t seq info payload.length && gathered.isPrefixOf payload && !payload.isEmpty
    | .header _ => false
    | .skip _ => false

/-- The receiver returns to HUNT. -/
def PortState.toHunt (P : PortState) : PortState := { P with receiver := .hunt }

/-- The code of OPEN (section 10.2). -/
def openCode : Byte := 0x01

/-- A payload begins with the OPEN code (R144, R161). -/
def isOpen (payload : List Byte) : Bool := payload.head? == some openCode

/-- A SEQ is one of the four values before E (R141, R143). -/
def duplicateSeq (e seq : Byte) : Bool := 1 ≤ (e - seq).toNat && (e - seq).toNat ≤ 4

/-- A SEQ is one to three ahead of E (R141). -/
def aheadSeq (e seq : Byte) : Bool := 1 ≤ (seq - e).toNat && (seq - e).toNat ≤ 3

/-- Places of the backlog in use (R142, R179): replies held, and requests accepted and not yet taken; an OPEN needs none. -/
def PortState.placesUsed (P : PortState) : Nat :=
  P.backlog.length + (P.accepted.filter fun q => !isOpen q.payload).length

/-- The acknowledgement owed is set at an acceptance; the 1 ms counts from the one that set it (R146). -/
def AckOwed.set : AckOwed → AckOwed
  | .clear => .waiting ms
  | .waiting left => .waiting left
  | .due => .due

/-- A DATA frame is accepted in order (R141, R170): E advances, the acknowledgement is owed, an ENTERING_DORMANT port is UP
again, and a request is handed to the decoder. -/
def PortState.accept (requests : List Request) (P : PortState) : PortState :=
  { P with expected := P.expected + 1, ackOwed := P.ackOwed.set, session := .up, accepted := P.accepted ++ requests }

/-- A valid DATA frame other than an OPEN is judged by its SEQ (R141 to R143). -/
def PortState.judge (seq : Byte) (payload : List Byte) (P : PortState) : PortState :=
  if seq = P.expected then
    if payload = [] then P.accept []
    else if P.placesUsed < Config.backlogPlaces then P.accept [{ seq := seq, payload := payload }]
    else (P.record ReportFlags.setRxFull).demand
  else if duplicateSeq P.expected seq then P.demand
  else if aheadSeq P.expected seq then (P.record ReportFlags.setOutOfOrder).demand
  else (P.record ReportFlags.setWindowExceeded).demand

/-- An OPEN accepted, in CLOSED or within a session, is handed to the session layer; an ENTERING_DORMANT port is UP again
(R144, R161, R165). -/
def PortState.acceptOpen (seq : Byte) (payload : List Byte) (P : PortState) : PortState :=
  { P with
    session := if P.session = .closed then .closed else .up
    accepted := P.accepted ++ [{ seq := seq, payload := payload }] }

end Sys2Proof.Machine
end

