-- ==== Sys2Proof/Machine/Requests.lean ====
section
/-! DEFINITION. What every request shares: how the Request Decoder takes it, the length check, the reply, CONFIG_CHANGED (R17,
R174 to R179). BAD_CODE. -/

namespace Sys2Proof.Machine

/-! ## Taking a request -/

/-- The request leaves the accepted ones. -/
def PortState.popAccepted (P : PortState) : PortState := { P with accepted := P.accepted.drop 1 }

/-- The decoder takes a request (R178): it is the oldest one accepted on the port. With none accepted, the command stands for
a request whose frame has just been accepted, and needs a session that is UP and a place for its reply (R142; log 4). A port
whose reported break stands is CLOSED (R155), so it takes none. -/
def takeRequest (p : Port) (code : Byte) (rest : List Byte) (s : State) : Option State :=
  match (s.port p).accepted with
  | q :: _ =>
    if (s.port p).session ≠ .closed ∧ q.payload = code :: rest then some (s.updPort p PortState.popAccepted) else none
  | [] => if (s.port p).session = .up ∧ (s.port p).placesUsed < Config.backlogPlaces then some s else none

/-! ## Replies (R174, R175, R178) -/

/-- A reply joins the tail of the reply backlog. -/
def PortState.queueReply (role : Role) (message : List Byte) (P : PortState) : PortState :=
  { P with backlog := P.backlog ++ [{ message := message, role := role }] }

/-- The bytes of a reply: the request's code plus 0x80, its tag, the result, the fields. -/
def replyBytes (code tag : Byte) (result : Result) (fields : List Byte) : List Byte :=
  [code + 0x80, tag, result.code] ++ fields

/-- A reply with this result and these fields. -/
def answerWith (p : Port) (code tag : Byte) (result : Result) (fields : List Byte) (s : State) : State :=
  s.updPort p (PortState.queueReply .plain (replyBytes code tag result fields))

/-- A reply with result OK. -/
def answerOk (p : Port) (code tag : Byte) (fields : List Byte) (s : State) : State := answerWith p code tag .ok fields s

/-- A refusal without fields. It changes nothing else (R177). -/
def refuse (p : Port) (code tag : Byte) (result : Result) (s : State) : State := answerWith p code tag result [] s

/-- A request message: it is taken, its tag read (0 where it is missing, R176), and handed on with its fields. -/
def request (p : Port) (code : Byte) (rest : List Byte) (act : Byte → List Byte → State → State) (s : State) : State :=
  match takeRequest p code rest s with
  | none => s
  | some s1 =>
    match rest with
    | [] => refuse p code 0 .badLength s1
    | tag :: fields => act tag fields s1

/-- A request with a range check: the value it checks, or the refusal. -/
def checked {α : Type} (p : Port) (code tag : Byte) (value : Except Result α) (act : α → State → State) (s : State) : State :=
  match value with
  | .error r => refuse p code tag r s
  | .ok v => act v s

/-! ## CONFIG_CHANGED (R17) -/

/-- A configuration-changing request answered OK raises CONFIG_CHANGED: the request code, the requesting port. -/
def configChanged (p : Port) (code : Byte) (s : State) : State :=
  s.raise srcConfigChanged (detailOf code.toNat (portCode p).toNat)

/-! ## BAD_CODE (R176) -/

/-- The reply to an unknown code. -/
def badCodeReply (rest : List Byte) : List Byte := [0xFF, rest.headD 0, Result.badCode.code]

/-- A request with an unknown code is answered and has no other effect. A known code is another command's. -/
def answerBadCode (p : Port) (code : Byte) (rest : List Byte) (s : State) : State :=
  if requestCodes.contains code then s
  else
    match takeRequest p code rest s with
    | none => s
    | some s1 => s1.updPort p (PortState.queueReply .plain (badCodeReply rest))

/-- BAD_CODE (R176). -/
def execBadCode (p : Port) (code : Byte) (rest : List Byte) (s : State) : Host.Outcome State Fault Refusal :=
  taken s (answerBadCode p code rest)

end Sys2Proof.Machine
end

