-- ==== Sys2Proof/Machine/Service.lean ====
section
/-! DEFINITION. The service cycle and the Delivery Scheduler: SERVICE_TIMER_EXPIRY, FORM_BATCH, REOFFER, PLACE_REPLY, and the
four flagged notices (R67 to R80, R96, R120, R121, R180, R181). -/

namespace Sys2Proof.Machine

/-! ## The scheduler's choice (R68, R69, R181) -/

/-- What a Delivery Scheduler places next. -/
inductive Choice where
  | reply (q : Reply) (rest : List Reply)
  | routeNotice (r : RouteNo) (notice : RouteNotice)
  | actionNotice (n : ActionNo) (notice : ActionNotice)
  | newBatch (r : RouteNo)
  | reoffer (r : RouteNo)
  deriving DecidableEq, Repr

/-- The first route with a notice flag, in ascending number (R181). -/
def PortState.firstRouteNotice (P : PortState) : Option RouteNo :=
  allRoutes.find? fun r => P.routeNotices[r.val] != .none

/-- The first action with a notice flag, in ascending number (R181). -/
def PortState.firstActionNotice (P : PortState) : Option ActionNo :=
  allActions.find? fun n => P.actionNotices[n.val] != .none

/-- A route of the port with a due re-offer (R69). -/
def State.reofferDue (s : State) (r : RouteNo) : Bool :=
  match (s.route r).batch with
  | none => false
  | some b => b.phase == .reofferDue

/-- A route is a candidate at an offer opportunity of the port (R69). -/
def State.candidate (p : Port) (s : State) (r : RouteNo) : Bool :=
  (s.route r).owner == some p && (s.eligible r || s.reofferDue r)

/-- Route `r` goes before route `q`: lower priority value, or the same and a head record created first (R69). -/
def State.goesBefore (s : State) (r q : RouteNo) : Bool :=
  (s.route r).cfg.priority < (s.route q).cfg.priority ||
    ((s.route r).cfg.priority == (s.route q).cfg.priority &&
      s.store.age (s.route q).headSeq < s.store.age (s.route r).headSeq)

/-- The better of the best so far and another candidate (R69). -/
def State.better (s : State) (best : Option RouteNo) (r : RouteNo) : Option RouteNo :=
  match best with
  | none => some r
  | some q => if s.goesBefore r q then some r else some q

/-- The candidate the scheduler takes (R69). -/
def State.bestCandidate (p : Port) (s : State) : Option RouteNo :=
  (allRoutes.filter (s.candidate p)).foldl s.better none

/-- The choice of a port's scheduler (R181): the oldest reply; while UP, a flagged notice, routes first; while UP, a batch or
a due re-offer. Nothing without room in the window, and nothing in CLOSED and DORMANT. -/
def State.choice (p : Port) (s : State) : Option Choice :=
  let P := s.port p
  if P.window.length < P.params.window ∧ (P.session = .up ∨ P.session = .enteringDormant) then
    match P.backlog with
    | q :: rest => some (.reply q rest)
    | [] =>
      if P.session = .up then
        match P.firstRouteNotice, P.firstActionNotice with
        | some r, _ => some (.routeNotice r P.routeNotices[r.val])
        | none, some n => some (.actionNotice n P.actionNotices[n.val])
        | none, none =>
          (s.bestCandidate p).map fun r => if s.reofferDue r then .reoffer r else .newBatch r
      else none
  else none

/-! ## Messages -/

/-- A record entry of a NOTIFY, 21 bytes (section 10.4). -/
def Rec.entry (x : Rec) : List Byte :=
  leBytes 4 x.seq.toNat ++ [byte x.source.val, kindCode x.kind ||| (if x.redelivered then 0x80 else 0), byte x.count] ++
    leBytes 2 x.detail.toNat ++ leBytes 6 x.first.toNat ++ leBytes 6 x.last.toNat

/-- A NOTIFY (R74, section 10.4). -/
def notifyMessage (r : RouteNo) (b : Batch) (again : Bool) (entries : List Rec) : List Byte :=
  [0x40, 0, byte r.val, b.tag, notifyFlags again entries] ++ leBytes 2 b.snapshot ++ [byte b.n] ++
    entries.flatMap Rec.entry

/-- A ROUTE-GAINED (R96, section 10.4); the previous owner is the other port, since only failover sets the flag (R94). -/
def routeGainedMessage (p : Port) (r : RouteNo) (s : State) : List Byte :=
  [0x41, 0, byte r.val, 1, ownerCode (some (otherPort p)), s.routeCondition r, byte (s.route r).queue.length] ++
    leBytes 2 (s.route r).lost

/-- A ROUTE-LOST (R96, section 10.4), with the owner at placing. -/
def routeLostMessage (r : RouteNo) (s : State) : List Byte := [0x42, 0, byte r.val, 1, ownerCode (s.route r).owner]

/-- The grace remaining in 100 ms units, rounded up; 0 outside GRACE (R120, R130). -/
def Action.graceRemaining (a : Action) : Nat :=
  match a.state with
  | .grace left => roundUp left (100 * ms)
  | .idle => 0
  | .fired _ _ => 0

/-- An ACTION-PENDING (R120, section 10.4). -/
def actionPendingMessage (n : ActionNo) (s : State) : List Byte :=
  [0x43, 0, byte n.val, (s.action n).graceNo, triggerCode (s.action n).cfg.trigger, byte (s.action n).graceRemaining]

/-- An ACTION-ENDED (R121, section 10.4), from the action's grace end (R114). -/
def actionEndedMessage (n : ActionNo) (s : State) : List Byte :=
  [0x44, 0, byte n.val, (s.action n).graceNo] ++
    match (s.action n).graceEnd with
    | some g => [graceOutcomeCode g.outcome, ownerCode g.endedBy]
    | none => [0, 0xFF]

/-! ## Service timer expiry, re-offer and stall -/

/-- The route stalls (R79): the records return marked, the batch is discarded, the stall mark is set. -/
def Route.stall (t : Route) : Route := { t.returnBatch with stalled := true }

/-- The service timer of a route expires (R78, R79, R80). -/
def serviceTimerExpires (r : RouteNo) (s : State) : State :=
  match (s.route r).batch, (s.route r).timer with
  | some b, some _ =>
    if b.attempts < b.retriesLimit then
      s.updRoute r fun t => { t with batch := some { b with attempts := b.attempts + 1, phase := .reofferDue }, timer := none }
    else handOnHeld ((s.updRoute r Route.stall).raise srcServiceTimeout (detailOf r.val 0))
  | _, _ => s

/-- SERVICE_TIMER_EXPIRY (R78, R79): a stopped timer has no expiry. -/
def execServiceTimerExpiry (r : RouteNo) (s : State) : Host.Outcome State Fault Refusal := taken s (serviceTimerExpires r)

/-- The number of records of a new batch (R71). -/
def batchSize (maxPayload : Nat) (t : Route) : Nat := min t.cfg.batchMax (min t.queue.length ((maxPayload - 8) / 21))

/-- The batch tag counter advances, from 255 to 1 (R73). -/
def nextTag (g : Byte) : Byte := if g = 255 then 1 else g + 1

/-- A new batch of `n` records on a route, its NOTIFY in the frame with this SEQ (R72). -/
def Route.formBatch (n : Nat) (frame : Byte) (t : Route) : Route :=
  { t with
    queue := (t.queue.take n).map Rec.offer ++ t.queue.drop n
    tagCounter := nextTag t.tagCounter
    batch := some { tag := nextTag t.tagCounter, n := n, snapshot := t.lost, retriesLimit := t.cfg.retries, attempts := 0,
                    phase := .awaitingAck, frame := frame } }

/-- A NOTIFY of a route's current batch is placed (R74, R148). -/
def placeNotify (p : Port) (r : RouteNo) (again : Bool) (s : State) : State :=
  match (s.route r).batch with
  | none => s
  | some b =>
    s.updPort p (PortState.place (notifyMessage r b again ((s.route r).queue.take b.n)) (.notify r b.tag))

/-- A new batch is formed on a route of the port and its NOTIFY placed (R72). -/
def formBatch (p : Port) (r : RouteNo) (s : State) : State :=
  placeNotify p r false
    (s.updRoute r fun t => t.formBatch (batchSize (s.port p).params.maxPayload t) (s.port p).sendSeq)

/-- FORM_BATCH (R69, R72): taken when the scheduler's choice is a new batch. -/
def execFormBatch (p : Port) (s : State) : Host.Outcome State Fault Refusal :=
  taken s fun s =>
    match s.choice p with
    | some (.newBatch r) => formBatch p r s
    | _ => s

/-- A due re-offer is placed (R78). -/
def reofferBatch (p : Port) (r : RouteNo) (s : State) : State :=
  placeNotify p r true
    (s.updRoute r fun t =>
      { t with batch := t.batch.map fun b => { b with phase := .awaitingAck, frame := (s.port p).sendSeq } })

/-- REOFFER (R69, R78): taken when the scheduler's choice is a due re-offer. -/
def execReoffer (p : Port) (s : State) : Host.Outcome State Fault Refusal :=
  taken s fun s =>
    match s.choice p with
    | some (.reoffer r) => reofferBatch p r s
    | _ => s

/-! ## Replies and flagged notices -/

/-- The oldest reply is placed and its backlog place given back (R142, R181). -/
def placeReply (p : Port) (q : Reply) (rest : List Reply) (s : State) : State :=
  s.updPort p fun P => (PortState.place q.message q.role { P with backlog := rest }).fallAsleep

/-- PLACE_REPLY (R181). -/
def execPlaceReply (p : Port) (s : State) : Host.Outcome State Fault Refusal :=
  taken s fun s =>
    match s.choice p with
    | some (.reply q rest) => placeReply p q rest s
    | _ => s

/-- A route notice is placed and its flag cleared (R94, R96, R180). -/
def placeRouteNotice (p : Port) (r : RouteNo) (message : List Byte) (s : State) : State :=
  s.updPort p fun P => PortState.place message .plain { P with routeNotices := P.routeNotices.set r.val .none }

/-- ROUTE_LOST (R96, R181): taken when the scheduler's choice is a ROUTE-LOST. -/
def execRouteLost (p : Port) (s : State) : Host.Outcome State Fault Refusal :=
  taken s fun s =>
    match s.choice p with
    | some (.routeNotice r .lost) => placeRouteNotice p r (routeLostMessage r s) s
    | _ => s

/-- ROUTE_GAINED (R96, R181): taken when the scheduler's choice is a ROUTE-GAINED. -/
def execRouteGained (p : Port) (s : State) : Host.Outcome State Fault Refusal :=
  taken s fun s =>
    match s.choice p with
    | some (.routeNotice r .gained) => placeRouteNotice p r (routeGainedMessage p r s) s
    | _ => s

/-- An action notice is placed and its flag cleared; `told` is what becomes of the told mark (R120, R121, R180). -/
def placeActionNotice (p : Port) (n : ActionNo) (told : Bool) (message : List Byte) (s : State) : State :=
  s.updPort p fun P =>
    PortState.place message .plain
      { P with
        actionNotices := P.actionNotices.set n.val .none
        told := P.told.set n.val (told || P.told[n.val]) }

/-- ACTION_PENDING (R120, R181): taken when the scheduler's choice is an ACTION-PENDING; the told mark is set. -/
def execActionPending (p : Port) (s : State) : Host.Outcome State Fault Refusal :=
  taken s fun s =>
    match s.choice p with
    | some (.actionNotice n .pending) => placeActionNotice p n true (actionPendingMessage n s) s
    | _ => s

/-- ACTION_ENDED (R121, R181): taken when the scheduler's choice is an ACTION-ENDED. -/
def execActionEnded (p : Port) (s : State) : Host.Outcome State Fault Refusal :=
  taken s fun s =>
    match s.choice p with
    | some (.actionNotice n .ended) => placeActionNotice p n false (actionEndedMessage n s) s
    | _ => s

end Sys2Proof.Machine
end

