-- ==== Sys2Proof/Machine/ActionRequests.lean ====
section
/-! DEFINITION. ACTION-SET, ACTION-GET, CANCEL-ACTION, SET-OUTPUT and CLEAR-OUTPUT (R125 to R130). -/

namespace Sys2Proof.Machine

/-! ## ACTION-SET -/

/-- The code of ACTION-SET. -/
def actionSetCode : Byte := 0x30

/-- ACTION-SET in range (R129). -/
def actionSetChecked (p : Port) (tag : Byte) (v : ActionNo × ActionConfig) (s : State) : State :=
  if (s.action v.1).state = .idle then
    handOnHeld (configChanged p actionSetCode
      (answerOk p actionSetCode tag [] (s.updAction v.1 fun a => { a with cfg := v.2 })))
  else refuse p actionSetCode tag .busy s

/-- The fields of ACTION-SET, checked in the order they stand (R129). -/
def readActionSet : List Byte → Except Result (ActionNo × ActionConfig)
  | [output, trigger, kind, grace, shape, width, polarity, drive] => do
    let n ← readOutput output
    let c ← readActionConfig trigger kind grace shape width polarity drive
    return (n, c)
  | _ => .error .badLength

/-- ACTION-SET with its tag and fields. -/
def actionSetWith (p : Port) (tag : Byte) (fields : List Byte) (s : State) : State :=
  checked p actionSetCode tag (readActionSet fields) (actionSetChecked p tag) s

/-- ACTION-SET (R129). -/
def execActionSet (p : Port) (rest : List Byte) (s : State) : Host.Outcome State Fault Refusal :=
  taken s (request p actionSetCode rest (actionSetWith p))

/-! ## ACTION-GET -/

/-- The code of ACTION-GET. -/
def actionGetCode : Byte := 0x31

/-- The seven configuration fields of an action, in ACTION-SET order. -/
def ActionConfig.bytes (c : ActionConfig) : List Byte :=
  [triggerCode c.trigger, actionKindCode c.kind, byte c.grace, shapeCode c.shape, widthCode c.width, flagCode c.activeHigh,
    flagCode c.pushPull]

/-- The pulse remaining in ms, rounded up; 0 where no pulse timer runs (R130). -/
def Action.pulseRemaining (a : Action) : Nat :=
  match a.state with
  | .fired _ (some left) => roundUp left ms
  | .fired _ none => 0
  | .idle => 0
  | .grace _ => 0

/-- The fields of an ACTION-GET reply (R130, section 10.3). -/
def State.actionFields (s : State) (n : ActionNo) : List Byte :=
  let a := s.action n
  [byte n.val] ++ a.cfg.bytes ++ [actionStateCode a.state, a.graceNo, byte a.graceRemaining] ++
    leBytes 2 a.pulseRemaining ++ [stateCauseCode a.state, s.noticeByte n]

/-- ACTION-GET with its tag and fields. -/
def actionGetWith (p : Port) (tag : Byte) (fields : List Byte) (s : State) : State :=
  match fields with
  | [output] =>
    checked p actionGetCode tag (readOutput output) (fun n s => answerOk p actionGetCode tag (s.actionFields n) s) s
  | _ => refuse p actionGetCode tag .badLength s

/-- ACTION-GET (R130). -/
def execActionGet (p : Port) (rest : List Byte) (s : State) : Host.Outcome State Fault Refusal :=
  taken s (request p actionGetCode rest (actionGetWith p))

/-! ## CANCEL-ACTION -/

/-- The code of CANCEL-ACTION. -/
def cancelActionCode : Byte := 0x32

/-- The fields of every CANCEL-ACTION reply (R125). -/
def State.cancelFields (s : State) (n : ActionNo) : List Byte :=
  [byte n.val, (s.action n).graceNo, actionStateCode (s.action n).state]

/-- A grace is cancelled (R119, R121, R125). -/
def cancelGrace (p : Port) (n : ActionNo) (s : State) : State :=
  (endGrace n .cancelled (some p) s).updAction n fun a => { a with state := .idle }

/-- CANCEL-ACTION in range (R125). -/
def cancelActionChecked (p : Port) (tag : Byte) (n : ActionNo) (s : State) : State :=
  match (s.action n).state with
  | .grace _ => let s1 := cancelGrace p n s; answerOk p cancelActionCode tag (s1.cancelFields n) s1
  | .fired _ _ => answerWith p cancelActionCode tag .tooLate (s.cancelFields n) s
  | .idle => answerWith p cancelActionCode tag .notPending (s.cancelFields n) s

/-- CANCEL-ACTION with its tag and fields. -/
def cancelActionWith (p : Port) (tag : Byte) (fields : List Byte) (s : State) : State :=
  match fields with
  | [output] => checked p cancelActionCode tag (readOutput output) (cancelActionChecked p tag) s
  | _ => refuse p cancelActionCode tag .badLength s

/-- CANCEL-ACTION (R125). -/
def execCancelAction (p : Port) (rest : List Byte) (s : State) : Host.Outcome State Fault Refusal :=
  taken s (request p cancelActionCode rest (cancelActionWith p))

/-! ## SET-OUTPUT -/

/-- The code of SET-OUTPUT. -/
def setOutputCode : Byte := 0x33

/-- The effect of SET-OUTPUT on the action (R127); what the firing raises is held. -/
def setOutput (p : Port) (n : ActionNo) (s : State) : State :=
  match (s.action n).state with
  | .idle => fire n .request s
  | .grace _ => fire n .request (endGrace n .fired (some p) s)
  | .fired _ _ => s

/-- SET-OUTPUT in range (R127). -/
def setOutputChecked (p : Port) (tag : Byte) (n : ActionNo) (s : State) : State :=
  let s1 := setOutput p n s
  handOnHeld (answerOk p setOutputCode tag
    [byte n.val, actionStateCode (s1.action n).state, stateCauseCode (s1.action n).state] s1)

/-- SET-OUTPUT with its tag and fields. -/
def setOutputWith (p : Port) (tag : Byte) (fields : List Byte) (s : State) : State :=
  match fields with
  | [output] => checked p setOutputCode tag (readOutput output) (setOutputChecked p tag) s
  | _ => refuse p setOutputCode tag .badLength s

/-- SET-OUTPUT (R127). -/
def execSetOutput (p : Port) (rest : List Byte) (s : State) : Host.Outcome State Fault Refusal :=
  taken s (request p setOutputCode rest (setOutputWith p))

/-! ## CLEAR-OUTPUT -/

/-- The code of CLEAR-OUTPUT. -/
def clearOutputCode : Byte := 0x34

/-- CLEAR-OUTPUT in range (R128). -/
def clearOutputChecked (p : Port) (tag : Byte) (n : ActionNo) (s : State) : State :=
  match (s.action n).state with
  | .fired _ _ => answerOk p clearOutputCode tag [] (s.updAction n fun a => { a with state := .idle })
  | .idle => refuse p clearOutputCode tag .notFired s
  | .grace _ => refuse p clearOutputCode tag .notFired s

/-- CLEAR-OUTPUT with its tag and fields. -/
def clearOutputWith (p : Port) (tag : Byte) (fields : List Byte) (s : State) : State :=
  match fields with
  | [output] => checked p clearOutputCode tag (readOutput output) (clearOutputChecked p tag) s
  | _ => refuse p clearOutputCode tag .badLength s

/-- CLEAR-OUTPUT (R128). -/
def execClearOutput (p : Port) (rest : List Byte) (s : State) : Host.Outcome State Fault Refusal :=
  taken s (request p clearOutputCode rest (clearOutputWith p))

end Sys2Proof.Machine
end

