-- ==== Sys2Proof/Machine/Frames.lean ====
section
/-! DEFINITION. The receiver: SYNC_BYTE, FRAME_HEADER_RECEIVED, PAYLOAD_BAD, INTER_BYTE_GAP, FRAMING_ERROR, SKIP_COMPLETE and
the three valid frames (R136 to R145, R152, R155, R161, R167, R171). An event whose condition the receiver's phase does not meet
leaves the port as it is (log 2, log 3). Bytes and frames are `received`: there are none while the line stays at space (R155). -/

namespace Sys2Proof.Machine

/-! ## Headers -/

/-- A SYNC in HUNT (R136). -/
def PortState.takeSync (P : PortState) : PortState :=
  match P.receiver with
  | .hunt => { P with receiver := .header [syncByte] }
  | .header _ => P
  | .payload _ _ => P
  | .skip _ => P

/-- SYNC_BYTE (R136). -/
def execSyncByte (p : Port) (s : State) : Host.Outcome State Fault Refusal := received p s fun s => s.updPort p PortState.takeSync

/-- The six bytes after a rejected SYNC are searched again (R136). -/
def rescan (bytes : List Byte) : Receiver :=
  match bytes.dropWhile fun b => b != syncByte with
  | [] => .hunt
  | b :: bs => .header (b :: bs)

/-- The seven header bytes are checked (R136, R137). R137 judges a frame with LEN 0 at once, and the table gives its header and
the frame a row each. It is the model's choice that the header's row returns the receiver to HUNT and keeps nothing of the header,
and that the frame is judged when its own row brings it whole, with nothing left to compare it with (log 3). -/
def PortState.judgeHeader (header : List Byte) (P : PortState) : PortState :=
  let len := leNumber ((header.drop 4).take 2)
  if [crc8 (header.take 6)] ≠ header.drop 6 then
    { P.record ReportFlags.setHeaderBad with receiver := rescan (header.drop 1) }
  else if Config.longestPayload < len then { P.record ReportFlags.setTooLong with receiver := .hunt }
  else if ((header[1]?).bind frameTypeOf).isNone then
    { P.record ReportFlags.setUnknownType with receiver := if len = 0 then .hunt else .skip (len + 2) }
  else { P with receiver := if len = 0 then .hunt else .payload header [] }

/-- The bytes that complete a header reach the receiver (R136): it is in HEADER, or in HUNT, where the command stands for the
header from its SYNC (log 3). -/
def PortState.takeHeader (bytes : List Byte) (P : PortState) : PortState :=
  let check (header : List Byte) : PortState :=
    if header.length = 7 ∧ header.head? = some syncByte then P.judgeHeader header else P
  match P.receiver with
  | .hunt => check bytes
  | .header gathered => check (gathered ++ bytes)
  | .payload _ _ => P
  | .skip _ => P

/-- FRAME_HEADER_RECEIVED (R136, R137). -/
def execFrameHeaderReceived (p : Port) (bytes : List Byte) (s : State) : Host.Outcome State Fault Refusal :=
  received p s fun s => s.updPort p (PortState.takeHeader bytes)

/-- SKIP_COMPLETE (R137). -/
def PortState.skipped (P : PortState) : PortState :=
  match P.receiver with
  | .skip _ => P.toHunt
  | .hunt => P
  | .header _ => P
  | .payload _ _ => P

/-- SKIP_COMPLETE (R137). -/
def execSkipComplete (p : Port) (s : State) : Host.Outcome State Fault Refusal :=
  received p s fun s => s.updPort p PortState.skipped

/-! ## Frames discarded -/

/-- A payload is discarded (R138, R139, R140): PAYLOAD_BAD is recorded, the demand is set for a DATA frame, and the receiver
returns to HUNT. -/
def PortState.discardPayload (data : Bool) (P : PortState) : PortState :=
  let Q := P.record ReportFlags.setPayloadBad
  (if data then Q.demand else Q).toHunt

/-- A header carries TYPE DATA. -/
def isDataHeader (header : List Byte) : Bool := header[1]? == some (frameTypeCode .data)

/-- A gap or a framing error abandons the frame being received (R139). -/
def PortState.abandon (P : PortState) : PortState :=
  match P.receiver with
  | .hunt => P
  | .header _ => (P.record ReportFlags.setHeaderBad).toHunt
  | .payload header _ => P.discardPayload (isDataHeader header)
  | .skip _ => P.toHunt

/-- INTER_BYTE_GAP (R139). -/
def execInterByteGap (p : Port) (s : State) : Host.Outcome State Fault Refusal :=
  taken s fun s => s.updPort p PortState.abandon

/-- FRAMING_ERROR (R139). -/
def execFramingError (p : Port) (s : State) : Host.Outcome State Fault Refusal :=
  taken s fun s => s.updPort p PortState.abandon

/-- The last two of these bytes are not the payload check of those before them (R134, R138). -/
def payloadCheckFails (bytes : List Byte) : Bool :=
  leBytes 2 (crc16 (bytes.take (bytes.length - 2))).toNat != bytes.drop (bytes.length - 2)

/-- The payload bytes and check bytes of a frame of this type are all received (R138): those of the header gathered, or in
HUNT those of a frame whose header the command stands for (log 3). -/
def PortState.payloadIsComplete (t : FrameType) (bytes : List Byte) (P : PortState) : Bool :=
  match P.receiver with
  | .hunt => 3 ≤ bytes.length && bytes.length ≤ Config.longestPayload + 2
  | .payload header gathered =>
    header[1]? == some (frameTypeCode t) && (gathered ++ bytes).length == leNumber ((header.drop 4).take 2) + 2
  | .header _ => false
  | .skip _ => false

/-- All the payload bytes and check bytes of the frame being received. -/
def PortState.payloadBytes (bytes : List Byte) (P : PortState) : List Byte :=
  match P.receiver with
  | .payload _ gathered => gathered ++ bytes
  | .hunt => bytes
  | .header _ => bytes
  | .skip _ => bytes

/-- A payload whose check fails (R138). -/
def PortState.takeBadPayload (t : FrameType) (bytes : List Byte) (P : PortState) : PortState :=
  if P.payloadIsComplete t bytes && payloadCheckFails (P.payloadBytes bytes) then P.discardPayload (t == .data) else P

/-- PAYLOAD_BAD (R138). -/
def execPayloadBad (p : Port) (t : FrameType) (bytes : List Byte) (s : State) : Host.Outcome State Fault Refusal :=
  received p s fun s => s.updPort p (PortState.takeBadPayload t bytes)

/-! ## Valid frames -/

/-- A valid DATA frame within a session (R141 to R145): it is judged, and then the acknowledgement in its INFO is applied
(log 18). The INFO of an OPEN that is no duplicate is not applied. R145 exempts an OPEN that begins a new session; that an OPEN
which turns out to be refused when it is taken is exempt too is the model's choice (log 29). -/
def dataInSession (p : Port) (seq info : Byte) (payload : List Byte) (s : State) : State :=
  if isOpen payload then
    if duplicateSeq (s.port p).expected seq then applyAck p info (s.updPort p PortState.demand)
    else s.updPort p (PortState.acceptOpen seq payload)
  else applyAck p info (s.updPort p (PortState.judge seq payload))

/-- A valid DATA frame (R138, R161, R167, R171). -/
def dataFrame (p : Port) (seq info : Byte) (payload : List Byte) (s : State) : State :=
  let s1 := s.updPort p PortState.toHunt
  if (s.port p).session = .closed then
    if isOpen payload then s1.updPort p (PortState.acceptOpen seq payload) else s1
  else dataInSession p seq info payload (s1.updPort p PortState.hearFrame)

/-- DATA_FRAME_RECEIVED (R141). -/
def execDataFrameReceived (p : Port) (seq info : Byte) (payload : List Byte) (s : State) : Host.Outcome State Fault Refusal :=
  received p s fun s => if (s.port p).completes .data seq info payload then dataFrame p seq info payload s else s

/-- A valid ACK frame within a session (R145, R149, R152): the acknowledgement first, and then the report flags, which count
when frames were in the window and frames remain. An expiry of the retransmit timer taken with them makes a round too (R153). -/
def ackInSession (p : Port) (seq info : Byte) (s : State) : State :=
  let s1 := applyAck p seq s
  if carriesFlags info && !(s.port p).window.isEmpty && !(s1.port p).window.isEmpty then
    callRound p (s1.updPort p (PortState.joinExpiry (s.port p).mayExpire))
  else s1

/-- A valid ACK frame (R138, R161, R167, R171). -/
def ackFrame (p : Port) (seq info : Byte) (s : State) : State :=
  let s1 := s.updPort p PortState.toHunt
  if (s.port p).session = .closed then s1 else ackInSession p seq info (s1.updPort p PortState.hearFrame)

/-- ACK_FRAME_RECEIVED (R145). -/
def execAckFrameReceived (p : Port) (seq info : Byte) (payload : List Byte) (s : State) : Host.Outcome State Fault Refusal :=
  received p s fun s => if (s.port p).completes .ack seq info payload then ackFrame p seq info s else s

/-- A valid ANNOUNCE frame (R138): in CLOSED it has no effect (R161). -/
def PortState.hearAnnounce (P : PortState) : PortState :=
  if P.session = .closed then P.toHunt else P.toHunt.hearFrame

/-- ANNOUNCE_FRAME_RECEIVED (R138). -/
def execAnnounceFrameReceived (p : Port) (seq info : Byte) (payload : List Byte) (s : State) :
    Host.Outcome State Fault Refusal :=
  received p s fun s =>
    if (s.port p).completes .announce seq info payload then s.updPort p PortState.hearAnnounce else s

end Sys2Proof.Machine
end

