-- ==== Sys2Proof/Machine/Lines.lean ====
section
/-! DEFINITION. The Line Sampler and the level sources' timer: SAMPLE_INSTANT, ACCEPTED_LEVEL_CHANGE, SETTLE_REPORT,
HOLDOFF_EXPIRY (R1 to R3, R9 to R14). -/

namespace Sys2Proof.Machine

/-- A line takes a sample (R2, R3). A count that reaches N stays there for the accepted change or settle report, which is
the next row of the table to act on the line. -/
def Line.sample (raw : Bool) (l : Line) : Line :=
  { raw := raw
    filter :=
      match l.filter with
      | .settled level run => .settled level (if raw = level then 0 else run + 1)
      | .unsettled candidate count =>
        if count = 0 ∨ raw ≠ candidate then .unsettled raw 1 else .unsettled candidate (count + 1) }

/-- The sample instant: all 48 lines are sampled (R1). -/
def sampleLines (raw : BitVec 48) (s : State) : State :=
  { s with
    sampleTime := s.timebase
    lines := Vector.ofFn fun i => Line.sample (raw.getLsb i) (s.line i) }

/-- SAMPLE_INSTANT (R1, R2). The changes and reports of one instant come before the next instant (log 9). -/
def execSampleInstant (raw : BitVec 48) (s : State) : Host.Outcome State Fault Refusal :=
  taken s fun s => if s.firstDue = none then sampleLines raw s else s

/-- The source of a line. -/
def sourceOf (i : LineNo) : SourceNo := ⟨i.val, by omega⟩

/-- A source returns to WATCH (R12, R14). -/
def restSource (i : SourceNo) (s : State) : State := s.updSource i fun u => { u with state := .watch }

/-- A level source whose line has become active or inactive (R11 to R14). -/
def levelSees (i : SourceNo) (active : Bool) (time : Time) (s : State) : State :=
  match (s.source i).state with
  | .off => s
  | .watch => if active then occur i .active time s else s
  | .raised (some _) => s
  | .raised none => if active then s else restSource i s
  | .holdoff _ => if active then s else restSource i s

/-- An accepted change reaches its line source (R9 to R14). -/
def sourceSeesChange (i : SourceNo) (level : Bool) (time : Time) (s : State) : State :=
  match (s.source i).cfg.mode with
  | .off => s
  | .on => s
  | .rise => if level then occur i .rise time s else s
  | .fall => if level then s else occur i .fall time s
  | .both => occur i (if level then .rise else .fall) time s
  | .high => levelSees i level time s
  | .low => levelSees i (!level) time s

/-- A settle report reaches its line source: only a level source in WATCH whose line settles active acts on it (R10, R11). -/
def sourceSeesSettle (i : SourceNo) (level : Bool) (time : Time) (s : State) : State :=
  if (s.source i).state = .watch ∧ activeLevel (s.source i).cfg.mode = some level then occur i .active time s else s

/-- A line whose run count has reached N takes its raw level (R2). Its source's occurrence is handed on first, and then what
the Source Table holds; where a chain cut short has left items held, that order is the model's choice (log 8). -/
def acceptChange (i : LineNo) (s : State) : State :=
  match (s.line i).filter with
  | .settled _ _ =>
    let raw := (s.line i).raw
    handOnHeld (sourceSeesChange (sourceOf i) raw s.sampleTime
      (s.updLine i fun l => { l with filter := .settled raw 0 }))
  | .unsettled _ _ => s

/-- ACCEPTED_LEVEL_CHANGE (R2): taken when the line is the lowest with a change or report due at this sample instant. -/
def execAcceptedLevelChange (i : LineNo) (s : State) : Host.Outcome State Fault Refusal :=
  taken s fun s => if s.firstDue = some i then acceptChange i s else s

/-- A line whose candidate count has reached N settles (R3). The order of the hand-offs is that of `acceptChange` (log 8). -/
def settleLine (i : LineNo) (s : State) : State :=
  match (s.line i).filter with
  | .unsettled candidate _ =>
    handOnHeld (sourceSeesSettle (sourceOf i) candidate s.sampleTime
      (s.updLine i fun l => { l with filter := .settled candidate 0 }))
  | .settled _ _ => s

/-- SETTLE_REPORT (R3): taken when the line is the lowest with a change or report due at this sample instant. -/
def execSettleReport (i : LineNo) (s : State) : Host.Outcome State Fault Refusal :=
  taken s fun s => if s.firstDue = some i then settleLine i s else s

/-- A level source's holdoff timer expires: REARM, stamped with the time of the expiry (R14). The order of the hand-offs is
that of `acceptChange` (log 8). -/
def holdoffExpires (i : SourceNo) (s : State) : State :=
  match (s.source i).state with
  | .holdoff _ => handOnHeld (occur i .rearm s.timebase s)
  | .off => s
  | .watch => s
  | .raised _ => s

/-- HOLDOFF_EXPIRY (R14): a source whose timer does not run has no expiry. -/
def execHoldoffExpiry (i : LineNo) (s : State) : Host.Outcome State Fault Refusal :=
  taken s (holdoffExpires (sourceOf i))

end Sys2Proof.Machine
end

