-- ==== Sys2Proof/Machine/Reset.lean ====
section
/-! DEFINITION. HARD_RESET and RESET_RELEASE (R187, R188), and the time that passes while no command waits (R36, log 1). -/

namespace Sys2Proof.Machine

/-- The cause a hard reset leaves when another stands already: a power-on that is not over stays POWER_ON (R188). -/
def joinCause : Option HardCause → HardCause → HardCause
  | some .powerOn, _ => .powerOn
  | some .pin, c => c
  | none, c => c

/-- HARD_RESET (R188): the part is held in hard reset; no block state is kept. -/
def execHardReset (cause : HardCause) (s : State) : Host.Outcome State Fault Refusal :=
  .next (State.heldInReset s.pending s.arrivals (joinCause s.hardReset cause))

/-- RESET_RELEASE (R187, R188): every block at its hard-reset value, the straps sampled. A part not held in reset has nothing
to release. -/
def execResetRelease (rate1 rate0 : Bool) (s : State) : Host.Outcome State Fault Refusal :=
  .next (match s.hardReset with
    | none => s
    | some cause => State.released s.pending s.arrivals cause rate1 rate0)

/-! ## Time -/

/-- A source's holdoff timer moves (R6). -/
def Source.tick (t : Source) : Source :=
  match t.state with
  | .holdoff left => { t with state := .holdoff (tickLeft left) }
  | .off => t
  | .watch => t
  | .raised _ => t

/-- A route's service timer moves (R77). -/
def Route.tick (t : Route) : Route := { t with timer := t.timer.map tickLeft }

/-- An action's grace and pulse timers move (R114). -/
def Action.tick (a : Action) : Action :=
  match a.state with
  | .idle => a
  | .grace left => { a with state := .grace (tickLeft left) }
  | .fired cause pulse => { a with state := .fired cause (pulse.map tickLeft) }

/-- The 1 ms of an acknowledgement owed moves (R146). -/
def AckOwed.tick : AckOwed → AckOwed
  | .clear => .clear
  | .waiting left => .waiting (tickLeft left)
  | .due => .due

/-- The ANNOUNCE schedule moves (R158). -/
def Schedule.tick : Schedule → Schedule
  | .stopped => .stopped
  | .due => .due
  | .waiting left => .waiting (tickLeft left)
  | .suspended => .suspended

/-- A port's timers move (R146, R150, R158, R167, R184), and its break detector while it sees a break (R155). The moment at which
acknowledgements and frames met an expiry is over (R153, R167; log 31). -/
def PortState.tick (P : PortState) : PortState :=
  { P with
    ackOwed := P.ackOwed.tick, retransmit := P.retransmit.map tickLeft, silence := P.silence.map tickLeft,
    announce := P.announce.tick, resetTimer := P.resetTimer.map tickLeft,
    spaceTime := if P.breakReported then P.spaceTime + 1 else P.spaceTime
    expiryNow := .byTimer, heardNow := false }

/-- One microsecond of the internal time reference (R36, R160). -/
def State.tick (s : State) : State :=
  { s with
    timebase := s.timebase + 1
    micro := if s.micro < 999999 then s.micro + 1 else 0
    seconds := if s.micro < 999999 then s.seconds else s.seconds + 1
    sources := Table.map s.sources Source.tick
    routes := Table.map s.routes Route.tick
    actions := Table.map s.actions Action.tick
    ports := { a := s.ports.a.tick, b := s.ports.b.tick } }

end Sys2Proof.Machine
end

