-- ==== Sys2Proof/Machine/RouteRequests.lean ====
section
/-! DEFINITION. ROUTE-SET, ROUTE-GET, CLAIM-ROUTE, RELEASE-ROUTE, RESUME-ROUTE and SERVICE-DONE (R59 to R63, R81 to R84, R89,
R99 to R103). -/

namespace Sys2Proof.Machine

/-! ## ROUTE-SET -/

/-- The code of ROUTE-SET. -/
def routeSetCode : Byte := 0x20

/-- The records that a new depth cuts, oldest first, and the queue that it leaves (R61). -/
def cutToDepth (depth : Nat) (queue : List Rec) : List Rec × List Rec := splitPending (queue.length - depth) queue

/-- The effect of ROUTE-SET on the route (R61): the close reports of the records cut are held. -/
def configureRoute (r : RouteNo) (cfg : RouteConfig) (s : State) : State :=
  let cut := cutToDepth cfg.depth (s.route r).queue
  (s.updRoute r fun t => Route.lose (countSum cut.1) { t with cfg := cfg, queue := cut.2 }).closeAll .dropped s.timebase cut.1

/-- The Source Table hands on what it holds now; what that raises stays held. -/
def handOnNow (s : State) : State := handSome s.held.length s

/-- ROUTE-SET in range (R60, R61). The close reports go first, and then CONFIG_CHANGED has its occurrence. -/
def routeSetChecked (p : Port) (tag : Byte) (v : RouteNo × RouteConfig) (s : State) : State :=
  if (s.route v.1).owner = some (otherPort p) then refuse p routeSetCode tag .notOwner s
  else if v.2.depth < offeredCount (s.route v.1).queue then refuse p routeSetCode tag .busy s
  else
    handOnHeld (configChanged p routeSetCode (handOnNow
      (answerOk p routeSetCode tag [byte (cutToDepth v.2.depth (s.route v.1).queue).1.length] (configureRoute v.1 v.2 s))))

/-- The fields of ROUTE-SET, checked in the order they stand (R59). -/
def readRouteSet : List Byte → Except Result (RouteNo × RouteConfig)
  | [route, priority, depth, policy, batchMax, timeout, retries, wake, failover, takeover, masked] => do
    let r ← readRoute route
    let c ← readRouteConfig priority depth policy batchMax timeout retries wake failover takeover masked
    return (r, c)
  | _ => .error .badLength

/-- ROUTE-SET with its tag and fields. -/
def routeSetWith (p : Port) (tag : Byte) (fields : List Byte) (s : State) : State :=
  checked p routeSetCode tag (readRouteSet fields) (routeSetChecked p tag) s

/-- ROUTE-SET (R59). -/
def execRouteSet (p : Port) (rest : List Byte) (s : State) : Host.Outcome State Fault Refusal :=
  taken s (request p routeSetCode rest (routeSetWith p))

/-! ## ROUTE-GET -/

/-- The code of ROUTE-GET. -/
def routeGetCode : Byte := 0x21

/-- The ten configuration fields of a route, in ROUTE-SET order. -/
def RouteConfig.bytes (c : RouteConfig) : List Byte :=
  [byte c.priority, byte c.depth, policyCode c.policy, byte c.batchMax, byte c.serviceTimeout, byte c.retries,
    flagCode c.wake, flagCode c.failover, flagCode c.takeover, flagCode c.masked]

/-- The current tag; 0 when no batch is out (R63, R67). -/
def Route.currentTag (t : Route) : Byte :=
  match t.batch with
  | some b => b.tag
  | none => 0

/-- The attempt count; 0 when no batch is out (R63, R67). -/
def Route.attemptCount (t : Route) : Nat :=
  match t.batch with
  | some b => b.attempts
  | none => 0

/-- The fields of a ROUTE-GET reply (R63, section 10.3). -/
def State.routeFields (s : State) (r : RouteNo) : List Byte :=
  let t := s.route r
  [byte r.val] ++ t.cfg.bytes ++ [ownerCode t.owner, s.routeCondition r, byte t.queue.length, byte (offeredCount t.queue)] ++
    leBytes 4 t.headSeq.toNat ++ leBytes 2 t.lost ++ [t.currentTag, byte t.attemptCount]

/-- ROUTE-GET with its tag and fields. -/
def routeGetWith (p : Port) (tag : Byte) (fields : List Byte) (s : State) : State :=
  match fields with
  | [route] =>
    checked p routeGetCode tag (readRoute route) (fun r s => answerOk p routeGetCode tag (s.routeFields r) s) s
  | _ => refuse p routeGetCode tag .badLength s

/-- ROUTE-GET (R63). -/
def execRouteGet (p : Port) (rest : List Byte) (s : State) : Host.Outcome State Fault Refusal :=
  taken s (request p routeGetCode rest (routeGetWith p))

/-! ## CLAIM-ROUTE -/

/-- The code of CLAIM-ROUTE. -/
def claimRouteCode : Byte := 0x22

/-- The outcomes of a claim (R100). -/
inductive Claim where
  | change | keep | denied
  deriving DecidableEq, Repr

/-- The decision of a claim (R100); `takeover` is mode TAKEOVER. -/
def State.claim (p : Port) (r : RouteNo) (takeover : Bool) (s : State) : Claim :=
  match (s.route r).owner with
  | none => .change
  | some q =>
    if q = p then .keep
    else if (s.port q).session = .closed then .change
    else if takeover && (s.route r).cfg.takeover then .change
    else .denied

/-- A port loses a route to a claim (R94, R101). -/
def PortState.loseRoute (r : RouteNo) (P : PortState) : PortState :=
  { P with routeNotices := P.routeNotices.set r.val (if P.session = .closed then .none else .lost) }

/-- A port's route notice flag is cleared (R94). -/
def PortState.clearRouteNotice (r : RouteNo) (P : PortState) : PortState :=
  { P with routeNotices := P.routeNotices.set r.val .none }

/-- The old owner of a route hears of a claim. -/
def tellOldOwner (r : RouteNo) (owner : Option Port) (s : State) : State :=
  match owner with
  | none => s
  | some q => s.updPort q (PortState.loseRoute r)

/-- A claim changes the owner (R95, R101). -/
def claimChanges (p : Port) (r : RouteNo) (s : State) : State :=
  (tellOldOwner r (s.route r).owner (s.updRoute r (Route.giveTo (some p)))).updPort p (PortState.clearRouteNotice r)

/-- The code of a route's state. -/
def State.stateByte (s : State) (r : RouteNo) : Byte := byte (s.route r).state.code

/-- CLAIM-ROUTE in range (R100 to R102). -/
def claimRouteChecked (p : Port) (tag : Byte) (v : RouteNo × Bool) (s : State) : State :=
  let before := ownerCode (s.route v.1).owner
  match s.claim p v.1 v.2 with
  | .denied => answerWith p claimRouteCode tag .denied [byte v.1.val, before] s
  | .keep =>
    handOnHeld (configChanged p claimRouteCode
      (answerOk p claimRouteCode tag [byte v.1.val, before, portCode p, s.stateByte v.1] s))
  | .change =>
    let s1 := claimChanges p v.1 s
    handOnHeld (configChanged p claimRouteCode
      (answerOk p claimRouteCode tag [byte v.1.val, before, portCode p, s1.stateByte v.1] s1))

/-- The fields of CLAIM-ROUTE, checked (R99). -/
def readClaim (route mode : Byte) : Except Result (RouteNo × Bool) := do
  let r ← readRoute route
  let m ← readFlag mode
  return (r, m)

/-- CLAIM-ROUTE with its tag and fields. -/
def claimRouteWith (p : Port) (tag : Byte) (fields : List Byte) (s : State) : State :=
  match fields with
  | [route, mode] => checked p claimRouteCode tag (readClaim route mode) (claimRouteChecked p tag) s
  | _ => refuse p claimRouteCode tag .badLength s

/-- CLAIM-ROUTE (R99). -/
def execClaimRoute (p : Port) (rest : List Byte) (s : State) : Host.Outcome State Fault Refusal :=
  taken s (request p claimRouteCode rest (claimRouteWith p))

/-! ## RELEASE-ROUTE -/

/-- The code of RELEASE-ROUTE. -/
def releaseRouteCode : Byte := 0x23

/-- A release (R95, R103). -/
def releaseRoute (p : Port) (r : RouteNo) (s : State) : State :=
  (s.updRoute r (Route.giveTo none)).updPort p (PortState.clearRouteNotice r)

/-- RELEASE-ROUTE in range (R103). -/
def releaseRouteChecked (p : Port) (tag : Byte) (r : RouteNo) (s : State) : State :=
  if (s.route r).owner = some p then
    let s1 := releaseRoute p r s
    handOnHeld (configChanged p releaseRouteCode (answerOk p releaseRouteCode tag [byte r.val, s1.stateByte r] s1))
  else refuse p releaseRouteCode tag .notOwner s

/-- RELEASE-ROUTE with its tag and fields. -/
def releaseRouteWith (p : Port) (tag : Byte) (fields : List Byte) (s : State) : State :=
  match fields with
  | [route] => checked p releaseRouteCode tag (readRoute route) (releaseRouteChecked p tag) s
  | _ => refuse p releaseRouteCode tag .badLength s

/-- RELEASE-ROUTE (R103). -/
def execReleaseRoute (p : Port) (rest : List Byte) (s : State) : Host.Outcome State Fault Refusal :=
  taken s (request p releaseRouteCode rest (releaseRouteWith p))

/-! ## RESUME-ROUTE -/

/-- The code of RESUME-ROUTE. -/
def resumeRouteCode : Byte := 0x24

/-- A stall is cleared (R89). -/
def resumeRoute (r : RouteNo) (s : State) : State := s.updRoute r fun t => { t with stalled := false }

/-- RESUME-ROUTE in range (R89). -/
def resumeRouteChecked (p : Port) (tag : Byte) (r : RouteNo) (s : State) : State :=
  if (s.route r).owner = some p then
    let s1 := resumeRoute r s
    answerOk p resumeRouteCode tag [byte r.val, s1.stateByte r] s1
  else refuse p resumeRouteCode tag .notOwner s

/-- RESUME-ROUTE with its tag and fields. -/
def resumeRouteWith (p : Port) (tag : Byte) (fields : List Byte) (s : State) : State :=
  match fields with
  | [route] => checked p resumeRouteCode tag (readRoute route) (resumeRouteChecked p tag) s
  | _ => refuse p resumeRouteCode tag .badLength s

/-- RESUME-ROUTE (R89). -/
def execResumeRoute (p : Port) (rest : List Byte) (s : State) : Host.Outcome State Fault Refusal :=
  taken s (request p resumeRouteCode rest (resumeRouteWith p))

/-! ## SERVICE-DONE -/

/-- The code of SERVICE-DONE. -/
def serviceDoneCode : Byte := 0x25

/-- The fields of SERVICE-DONE, checked (R81). -/
def readServiceDone (route tag k : Byte) : Except Result (RouteNo × Byte × Nat) := do
  let r ← readRoute route
  let t ← if tag = 0 then Except.error Result.badValue else Except.ok tag
  let n ← readRange 0 16 k
  return (r, t, n)

/-- The batch that a SERVICE-DONE ends: the current one, if it has this tag (R81). -/
def Route.batchOf (tag : Byte) (t : Route) : Option Batch :=
  match t.batch with
  | some b => if t.state = .inService ∧ b.tag = tag then some b else none
  | none => none

/-- A route after a SERVICE-DONE with served count `k` (R82): the rest of the batch returns marked, the tally falls by the
snapshot, the batch is gone. -/
def Route.serviced (k : Nat) (b : Batch) (t : Route) : Route :=
  { t with queue := (t.queue.drop k).map Rec.returned, lost := t.lost - b.snapshot, batch := none, timer := none }

/-- The effect of SERVICE-DONE on the route (R82): the close reports are held. -/
def completeBatch (r : RouteNo) (k : Nat) (b : Batch) (s : State) : State :=
  (s.updRoute r (Route.serviced k b)).closeAll .serviced s.timebase ((s.route r).queue.take k)

/-- SERVICE-DONE in range (R81, R82). -/
def serviceDoneChecked (p : Port) (tag : Byte) (v : RouteNo × Byte × Nat) (s : State) : State :=
  if (s.route v.1).owner = some p then
    match (s.route v.1).batchOf v.2.1 with
    | none => refuse p serviceDoneCode tag .stale s
    | some b =>
      if b.n < v.2.2 then refuse p serviceDoneCode tag .badValue s
      else
        let s1 := completeBatch v.1 v.2.2 b s
        handOnHeld (answerOk p serviceDoneCode tag
          ([byte v.1.val, v.2.1, byte v.2.2, byte (b.n - v.2.2), byte (s1.route v.1).queue.length] ++
            leBytes 2 (s1.route v.1).lost) s1)
  else refuse p serviceDoneCode tag .notOwner s

/-- SERVICE-DONE with its tag and fields. -/
def serviceDoneWith (p : Port) (tag : Byte) (fields : List Byte) (s : State) : State :=
  match fields with
  | [route, batchTag, k] =>
    checked p serviceDoneCode tag (readServiceDone route batchTag k) (serviceDoneChecked p tag) s
  | _ => refuse p serviceDoneCode tag .badLength s

/-- SERVICE-DONE (R81). -/
def execServiceDone (p : Port) (rest : List Byte) (s : State) : Host.Outcome State Fault Refusal :=
  taken s (request p serviceDoneCode rest (serviceDoneWith p))

end Sys2Proof.Machine
end

