-- ==== Sys2Proof/Machine/SessionRequests.lean ====
section
/-! DEFINITION. The session and device-wide requests: OPEN, CLOSE, PING, DORMANT, STATUS, DEVICE-RESET, GET-TIME, SET-TIME,
HISTORY-READ (R37, R38, R40, R41, R162 to R166, R169, R182 to R184). -/

namespace Sys2Proof.Machine

/-! ## OPEN -/

/-- An OPEN is taken (R161, R162, R165): it is the oldest request accepted on the port. With none accepted, the command stands
for an OPEN whose frame has just been accepted: any in CLOSED, one that is no duplicate in a session (R144; log 4), and none while
the line stays at space, where the receiver finds no frame (R155). A further OPEN that a CLOSED port has accepted before the first
was taken stays accepted. It was judged in CLOSED, so it is taken in its turn within the session that the first began, ends it and
begins another, also when it is a retransmission of the first. That is the model's choice: R144 judges an OPEN within a session
only (log 30). -/
def takeOpen (p : Port) (seq : Byte) (rest : List Byte) (s : State) : Option State :=
  match (s.port p).accepted with
  | q :: _ =>
    if q.seq = seq ∧ q.payload = openCode :: rest then some (s.updPort p PortState.popAccepted) else none
  | [] =>
    if (s.port p).breakReported ∨ (s.port p).session ≠ .closed ∧ duplicateSeq (s.port p).expected seq then none else some s

/-- The fields of OPEN, checked (R162). -/
def readOpen : List Byte → Except Result Params
  | [m0, m1, window, silence, retransmit] => readParams m0 m1 window silence retransmit
  | _ => .error .badLength

/-- The fields of OPENED (R162, section 10.3). -/
def openedFields (sessionNo : Half) (nextSeq : Seq) : List Byte :=
  leBytes 2 sessionNo.toNat ++ leBytes 2 Config.familyCode ++ [byte Config.revision] ++ leBytes 4 nextSeq.toNat ++
    [byte Config.generalRecords, byte Config.reserveRecords, byte Config.historyEntries]

/-- An action is in GRACE. -/
def Action.inGrace (a : Action) : Bool :=
  match a.state with
  | .grace _ => true
  | .idle => false
  | .fired _ _ => false

/-- The action notice flags of a port that comes UP (R120, R163). -/
def noticesAtOpen (actions : Vector Action 16) (notices : Vector ActionNotice 16) : Vector ActionNotice 16 :=
  Vector.ofFn fun n => if actions[n.val].inGrace then .pending else notices[n.val]

/-- The port begins a session (R162, R163). The acknowledgement of the OPEN is owed (R146; log 13). -/
def PortState.beginSession (seq tag : Byte) (q : Params) (nextSeq : Seq) (actions : Vector Action 16) (P : PortState) :
    PortState :=
  PortState.listen
    { P with
      expected := seq + 1, sendSeq := 0, params := q, sessionNo := P.sessionNo + 1, closing := false, refusing := false,
      session := .up, announce := .stopped, silence := none, ackOwed := P.ackOwed.set
      backlog := { message := replyBytes openCode tag .ok (openedFields (P.sessionNo + 1) nextSeq), role := .plain } ::
        P.backlog
      actionNotices := noticesAtOpen actions P.actionNotices }

/-- The port comes UP to deliver a refusal of OPEN, placed as frame 0 (R164). -/
def PortState.refuseOpen (seq tag : Byte) (result : Result) (P : PortState) : PortState :=
  PortState.place (replyBytes openCode tag result []) .refusedOpen
    { P with
      expected := seq + 1, sendSeq := 0, params := .fallback, closing := true, refusing := true, session := .up,
      announce := .stopped, silence := none, ackOwed := P.ackOwed.set }

/-- The end of the session that an OPEN finds (R165). -/
def endBeforeOpen (p : Port) (s : State) : State := if (s.port p).session = .closed then s else orderlyEnd p s

/-- An OPEN with its tag and fields opens a session or is refused (R162, R164). -/
def openWith (p : Port) (seq tag : Byte) (fields : List Byte) (s : State) : State :=
  match readOpen fields with
  | .ok q => s.updPort p (PortState.beginSession seq tag q s.store.nextSeq s.actions)
  | .error r => s.updPort p (PortState.refuseOpen seq tag r)

/-- An OPEN taken (R162, R164, R165); the tag of a single byte is missing, and 0 stands for it (R176). -/
def openTaken (p : Port) (seq : Byte) (rest : List Byte) (s : State) : State :=
  match rest with
  | [] => (endBeforeOpen p s).updPort p (PortState.refuseOpen seq 0 .badLength)
  | tag :: fields => openWith p seq tag fields (endBeforeOpen p s)

/-- OPEN (R162). -/
def execOpenSession (p : Port) (seq : Byte) (rest : List Byte) (s : State) : Host.Outcome State Fault Refusal :=
  taken s fun s =>
    match takeOpen p seq rest s with
    | none => s
    | some s1 => openTaken p seq rest s1

/-! ## CLOSE, PING, DORMANT, DEVICE-RESET -/

/-- The code of CLOSE. -/
def closeCode : Byte := 0x02

/-- CLOSE taken (R166): the closing mark is set, the silence timer stops, the OK waits to be acknowledged. -/
def PortState.beginClose (tag : Byte) (P : PortState) : PortState :=
  PortState.queueReply .close (replyBytes closeCode tag .ok []) { P with closing := true, silence := none }

/-- CLOSE with its tag and fields. -/
def closeWith (p : Port) (tag : Byte) (fields : List Byte) (s : State) : State :=
  match fields with
  | [] => s.updPort p (PortState.beginClose tag)
  | _ :: _ => refuse p closeCode tag .badLength s

/-- CLOSE (R166). -/
def execClose (p : Port) (rest : List Byte) (s : State) : Host.Outcome State Fault Refusal :=
  taken s (request p closeCode rest (closeWith p))

/-- The code of PING. -/
def pingCode : Byte := 0x03

/-- PING with its tag and fields (R182). -/
def pingWith (p : Port) (tag : Byte) (fields : List Byte) (s : State) : State :=
  match fields with
  | [] => answerOk p pingCode tag (leBytes 2 (s.port p).sessionNo.toNat) s
  | _ :: _ => refuse p pingCode tag .badLength s

/-- PING (R182). -/
def execPing (p : Port) (rest : List Byte) (s : State) : Host.Outcome State Fault Refusal :=
  taken s (request p pingCode rest (pingWith p))

/-- The code of DORMANT. -/
def dormantCode : Byte := 0x04

/-- The port starts to fall dormant (R169). -/
def PortState.enterDormant (tag : Byte) (P : PortState) : PortState :=
  PortState.queueReply .plain (replyBytes dormantCode tag .ok []) { P with session := .enteringDormant }

/-- DORMANT with its tag and fields (R169). -/
def dormantWith (p : Port) (tag : Byte) (fields : List Byte) (s : State) : State :=
  match fields with
  | [] =>
    if s.servesFor p || (s.port p).closing then refuse p dormantCode tag .busy s
    else s.updPort p (PortState.enterDormant tag)
  | _ :: _ => refuse p dormantCode tag .badLength s

/-- DORMANT (R169). -/
def execDormant (p : Port) (rest : List Byte) (s : State) : Host.Outcome State Fault Refusal :=
  taken s (request p dormantCode rest (dormantWith p))

/-- The code of DEVICE-RESET. -/
def deviceResetCode : Byte := 0x06

/-- DEVICE-RESET taken (R184): a soft reset is pending for the port. -/
def PortState.pendReset (tag : Byte) (P : PortState) : PortState :=
  PortState.queueReply .deviceReset (replyBytes deviceResetCode tag .ok []) { P with resetPending := true }

/-- DEVICE-RESET with its tag and fields (R184). -/
def deviceResetWith (p : Port) (tag : Byte) (fields : List Byte) (s : State) : State :=
  match fields with
  | [] => s.updPort p (PortState.pendReset tag)
  | _ :: _ => refuse p deviceResetCode tag .badLength s

/-- DEVICE-RESET (R184). -/
def execDeviceReset (p : Port) (rest : List Byte) (s : State) : Host.Outcome State Fault Refusal :=
  taken s (request p deviceResetCode rest (deviceResetWith p))

/-! ## STATUS -/

/-- The code of STATUS. -/
def statusCode : Byte := 0x05

/-- The five bytes of a route in STATUS (section 10.3). -/
def State.routeStatus (s : State) (r : RouteNo) : List Byte :=
  [s.routeCondition r, ownerCode (s.route r).owner, byte (s.route r).queue.length] ++ leBytes 2 (s.route r).lost

/-- The fields of STATUS (R183, section 10.3). -/
def State.statusFields (s : State) : List Byte :=
  [sessionCode (s.port .A).session, sessionCode (s.port .B).session, byte s.store.freeGeneral, byte s.store.freeReserve] ++
    allRoutes.flatMap s.routeStatus

/-- The part as STATUS shows it to a port: the requesting port always appears as UP (R183; log 17). -/
def State.seenBy (p : Port) (s : State) : State := s.updPort p fun P => { P with session := .up }

/-- STATUS with its tag and fields (R183). -/
def statusWith (p : Port) (tag : Byte) (fields : List Byte) (s : State) : State :=
  match fields with
  | [] => answerOk p statusCode tag (s.seenBy p).statusFields s
  | _ :: _ => refuse p statusCode tag .badLength s

/-- STATUS (R183). -/
def execStatus (p : Port) (rest : List Byte) (s : State) : Host.Outcome State Fault Refusal :=
  taken s (request p statusCode rest (statusWith p))

/-! ## GET-TIME and SET-TIME -/

/-- The code of GET-TIME. -/
def getTimeCode : Byte := 0x07

/-- GET-TIME with its tag and fields (R37). -/
def getTimeWith (p : Port) (tag : Byte) (fields : List Byte) (s : State) : State :=
  match fields with
  | [] => answerOk p getTimeCode tag (leBytes 6 s.timebase.toNat) s
  | _ :: _ => refuse p getTimeCode tag .badLength s

/-- GET-TIME (R37). -/
def execGetTime (p : Port) (rest : List Byte) (s : State) : Host.Outcome State Fault Refusal :=
  taken s (request p getTimeCode rest (getTimeWith p))

/-- The code of SET-TIME. -/
def setTimeCode : Byte := 0x08

/-- SET-TIME with its tag and fields (R38): the reply carries the value replaced, the occurrence the new time. -/
def setTimeWith (p : Port) (tag : Byte) (fields : List Byte) (s : State) : State :=
  if fields.length = 6 then
    handOnHeld (configChanged p setTimeCode
      { answerOk p setTimeCode tag (leBytes 6 s.timebase.toNat) s with timebase := BitVec.ofNat 48 (leNumber fields) })
  else refuse p setTimeCode tag .badLength s

/-- SET-TIME (R38). -/
def execSetTime (p : Port) (rest : List Byte) (s : State) : Host.Outcome State Fault Refusal :=
  taken s (request p setTimeCode rest (setTimeWith p))

/-! ## HISTORY-READ -/

/-- The code of HISTORY-READ. -/
def historyReadCode : Byte := 0x38

/-- The close number of the oldest retained entry; the counter where there is none. -/
def History.oldest (h : History) : Half :=
  match h.entries with
  | [] => h.counter
  | e :: _ => e.closeNo

/-- Where a read starts, and GAP (R40). -/
def History.start (h : History) (no : Half) : Nat × Bool :=
  if (no - h.oldest).toNat < h.entries.length then ((no - h.oldest).toNat, false)
  else if no = h.counter then (h.entries.length, false)
  else (0, true)

/-- The number of entries carried (R41). -/
def History.carried (h : History) (start maxCount maxPayload : Nat) : Nat :=
  min maxCount (min ((maxPayload - 8) / 22) (h.entries.length - start))

/-- A history entry, 22 bytes (section 10.3). -/
def HistEntry.bytes (e : HistEntry) : List Byte :=
  leBytes 2 e.closeNo.toNat ++ leBytes 4 e.seq.toNat ++
    [byte e.source.val, kindCode e.kind, byte e.count, closeOutcomeCode e.outcome] ++ leBytes 6 e.first.toNat ++
    leBytes 6 e.closeTime.toNat

/-- The next close number: the one after the last entry carried, or the counter (R41). -/
def History.nextNo (h : History) (entries : List HistEntry) : Half :=
  match entries.getLast? with
  | some e => e.closeNo + 1
  | none => h.counter

/-- The fields of a HISTORY-READ reply (R41, section 10.3). -/
def History.readFields (h : History) (no : Half) (maxCount maxPayload : Nat) : List Byte :=
  let i := (h.start no).1
  let n := h.carried i maxCount maxPayload
  let entries := (h.entries.drop i).take n
  let more := decide (i + n < h.entries.length)
  [byte n, byte ((h.start no).2.toNat + 2 * more.toNat)] ++ leBytes 2 (h.nextNo entries).toNat ++
    [byte h.entries.length] ++ entries.flatMap HistEntry.bytes

/-- HISTORY-READ with its tag and fields (R40, R41). -/
def historyReadWith (p : Port) (tag : Byte) (fields : List Byte) (s : State) : State :=
  match fields with
  | [n0, n1, maxCount] =>
    checked p historyReadCode tag (readRange 1 64 maxCount)
      (fun m s =>
        answerOk p historyReadCode tag
          (s.history.readFields (BitVec.ofNat 16 (leNumber [n0, n1])) m (s.port p).params.maxPayload) s) s
  | _ => refuse p historyReadCode tag .badLength s

/-- HISTORY-READ (R40). -/
def execHistoryRead (p : Port) (rest : List Byte) (s : State) : Host.Outcome State Fault Refusal :=
  taken s (request p historyReadCode rest (historyReadWith p))

end Sys2Proof.Machine
end

