-- ==== Sys2Proof/Machine/SourceRequests.lean ====
section
/-! DEFINITION. SOURCE-SET, SOURCE-GET and LINE-READ (R18 to R22). -/

namespace Sys2Proof.Machine

/-! ## SOURCE-SET -/

/-- The code of SOURCE-SET. -/
def sourceSetCode : Byte := 0x10

/-- A port may use a route for a source: NONE, no owner, or its own (R19). -/
def State.mayUse (p : Port) (s : State) : Option RouteNo → Bool
  | none => true
  | some r => (s.route r).owner == none || (s.route r).owner == some p

/-- The permission check of SOURCE-SET (R19). -/
def State.maySetSource (p : Port) (s : State) (i : SourceNo) (cfg : SourceConfig) : Bool :=
  s.mayUse p (s.source i).cfg.route && s.mayUse p cfg.route

/-- A source configured anew (R20). -/
def Source.configured (cfg : SourceConfig) : Source := { cfg := cfg, state := if cfg.mode = .off then .off else .watch }

/-- The line of a line source restarts its filter (R3, R20). -/
def restartLine (i : SourceNo) (s : State) : State :=
  match lineOf i with
  | some l => s.updLine l fun x => Line.restarted x.raw
  | none => s

/-- The effect of SOURCE-SET on the source and its line (R20). -/
def configureSource (i : SourceNo) (cfg : SourceConfig) (s : State) : State :=
  restartLine i (s.updSource i fun _ => Source.configured cfg)

/-- SOURCE-SET in range (R19, R20). -/
def sourceSetChecked (p : Port) (tag : Byte) (v : SourceNo × SourceConfig) (s : State) : State :=
  if s.maySetSource p v.1 v.2 then
    handOnHeld (configChanged p sourceSetCode (answerOk p sourceSetCode tag [] (configureSource v.1 v.2 s)))
  else refuse p sourceSetCode tag .notOwner s

/-- SOURCE-SET with its tag and fields. -/
def sourceSetWith (p : Port) (tag : Byte) (fields : List Byte) (s : State) : State :=
  match fields with
  | [source, mode, filter, route, coalesce, holdoff] =>
    checked p sourceSetCode tag (readSourceSet source mode filter route coalesce holdoff) (sourceSetChecked p tag) s
  | _ => refuse p sourceSetCode tag .badLength s

/-- SOURCE-SET (R18). -/
def execSourceSet (p : Port) (rest : List Byte) (s : State) : Host.Outcome State Fault Refusal :=
  taken s (request p sourceSetCode rest (sourceSetWith p))

/-! ## SOURCE-GET -/

/-- The code of SOURCE-GET. -/
def sourceGetCode : Byte := 0x11

/-- The settled flag and the level of a source's line; 0 and 0 for an internal source (R21). -/
def State.sourceLine (s : State) (i : SourceNo) : Bool × Bool :=
  match lineOf i with
  | some l => ((s.line l).isSettled, (s.line l).level)
  | none => (false, false)

/-- The open record of a source state; 0 where there is none (R21). -/
def SourceState.openSeq : SourceState → Seq
  | .raised (some q) => q
  | .raised none => 0
  | .off => 0
  | .watch => 0
  | .holdoff _ => 0

/-- The holdoff remaining in 10 ms units, rounded up; 0 outside HOLDOFF (R21). -/
def SourceState.holdoffRemaining : SourceState → Nat
  | .holdoff left => roundUp left (10 * ms)
  | .off => 0
  | .watch => 0
  | .raised _ => 0

/-- The fields of a SOURCE-GET reply (R21, section 10.3). -/
def State.sourceFields (s : State) (i : SourceNo) : List Byte :=
  let t := s.source i
  [byte i.val, modeCode t.cfg.mode, filterCode t.cfg.filter, routeCode t.cfg.route, flagCode t.cfg.coalesce,
    byte t.cfg.holdoff, sourceStateCode t.state, flagCode (s.sourceLine i).1, flagCode (s.sourceLine i).2] ++
    leBytes 4 t.state.openSeq.toNat ++ [byte t.state.holdoffRemaining]

/-- SOURCE-GET with its tag and fields. -/
def sourceGetWith (p : Port) (tag : Byte) (fields : List Byte) (s : State) : State :=
  match fields with
  | [source] =>
    checked p sourceGetCode tag (readSource source) (fun i s => answerOk p sourceGetCode tag (s.sourceFields i) s) s
  | _ => refuse p sourceGetCode tag .badLength s

/-- SOURCE-GET (R21). -/
def execSourceGet (p : Port) (rest : List Byte) (s : State) : Host.Outcome State Fault Refusal :=
  taken s (request p sourceGetCode rest (sourceGetWith p))

/-! ## LINE-READ -/

/-- The code of LINE-READ. -/
def lineReadCode : Byte := 0x12

/-- LINE-READ with its tag and fields (R22). -/
def lineReadWith (p : Port) (tag : Byte) (fields : List Byte) (s : State) : State :=
  match fields with
  | [] => answerOk p lineReadCode tag (s.levelBytes ++ s.settledBytes) s
  | _ :: _ => refuse p lineReadCode tag .badLength s

/-- LINE-READ (R22). -/
def execLineRead (p : Port) (rest : List Byte) (s : State) : Host.Outcome State Fault Refusal :=
  taken s (request p lineReadCode rest (lineReadWith p))

end Sys2Proof.Machine
end

