-- ==== Sys2Proof/Machine/Transmit.lean ====
section
/-! DEFINITION. The transmitter and the timers of a Link Port: ACK_DELAY_EXPIRY, TRANSMIT_ACK_FRAME, TRANSMIT_DATA_FRAME,
FRAME_TRANSMIT_END, RETRANSMIT_TIMEOUT, LINK_BREAK, BREAK_LINE_MARK, ANNOUNCE, SILENCE_EXPIRY, DEVICE_RESET_TIMEOUT (R146,
R147, R150, R151, R154, R155, R158, R159, R167, R184). -/

namespace Sys2Proof.Machine

/-! ## Frames begun -/

/-- ACK_DELAY_EXPIRY (R146): 1 ms has passed since the acceptance that set the acknowledgement owed. -/
def PortState.ackDelayPasses (P : PortState) : PortState :=
  match P.ackOwed with
  | .waiting _ => { P with ackOwed := .due }
  | .clear => P
  | .due => P

/-- ACK_DELAY_EXPIRY (R146). -/
def execAckDelayExpiry (p : Port) (s : State) : Host.Outcome State Fault Refusal :=
  taken s fun s => s.updPort p PortState.ackDelayPasses

/-- The ACK frame the port sends now (R133, R140, R146). -/
def PortState.ackFrame (P : PortState) : Frame := { ftype := .ack, seq := P.ackNo, info := P.report.info, payload := [] }

/-- An ACK frame begins transmission (R140, R146, R147): flags, demand and acknowledgement owed are cleared. -/
def PortState.beginAck (P : PortState) : PortState :=
  PortState.fallAsleep
    { P with
      tx := some { frame := P.ackFrame, live := true }, report := .clear, ackDemand := false, ackOwed := .clear }

/-- The transmitter may begin an ACK frame (R147). -/
def PortState.maySendAck (P : PortState) : Bool := P.mayTransmit && P.txFree && P.ackReady

/-- TRANSMIT_ACK_FRAME (R147). -/
def execTransmitAckFrame (p : Port) (s : State) : Host.Outcome State Fault Refusal :=
  taken s fun s => if (s.port p).maySendAck then s.updPort p PortState.beginAck else s

/-- The DATA frame that carries a placed message now (R133, R151): INFO is the acknowledgement number current as it begins. -/
def PortState.dataFrame (w : Slot) (P : PortState) : Frame :=
  { ftype := .data, seq := w.seq, info := P.ackNo, payload := w.message }

/-- A placed frame begins transmission (R146, R147, R151): it meets the acknowledgement owed, and leaves the round that it is
next of. -/
def PortState.beginData (w : Slot) (P : PortState) : PortState :=
  PortState.fallAsleep
    { P with
      tx := some { frame := P.dataFrame w, live := true }
      window := P.window.map (Slot.begin w.seq)
      ackOwed := .clear
      round := P.roundNow.1.drop 1
      roundsDue := P.roundNow.2 }

/-- The DATA frame that the transmitter may begin now (R147): none while an ACK frame goes before it. -/
def PortState.dataToSend (P : PortState) : Option Slot :=
  if P.mayTransmit && P.txFree && !P.ackReady then P.nextData else none

/-- TRANSMIT_DATA_FRAME (R147). -/
def execTransmitDataFrame (p : Port) (s : State) : Host.Outcome State Fault Refusal :=
  taken s fun s =>
    match (s.port p).dataToSend with
    | some w => s.updPort p (PortState.beginData w)
    | none => s

/-! ## Frames ended -/

/-- The first transmission of the DEVICE-RESET reply has ended (R184): the 100 ms count starts. -/
def PortState.startResetTimer (P : PortState) : PortState :=
  if P.resetPending ∧ P.resetTimer = none then { P with resetTimer := some (100 * ms) } else P

/-- A frame of the window has gone out to its last byte (R150, R184). -/
def PortState.endData (q : Byte) (P : PortState) : PortState :=
  let Q :=
    if P.window.any fun w => w.seq == q && w.role == .deviceReset && w.sent == .sending then P.startResetTimer else P
  { Q with
    window := P.window.map (Slot.finish q)
    retransmit := if (P.window.head?.map Slot.seq) = some q then some P.params.retransmitTime else P.retransmit
    expiryNow := if (P.window.head?.map Slot.seq) = some q then .byTimer else P.expiryNow }

/-- The frame on the transmitter has gone out to its last byte, and the transmitter is free (R147). Only the end of a DATA
frame of the present session has a further effect (R150, R184; log 10). -/
def PortState.endFrame (P : PortState) : PortState :=
  match P.tx with
  | none => P
  | some t => if t.live ∧ t.frame.ftype = .data then PortState.endData t.frame.seq { P with tx := none } else { P with tx := none }

/-- FRAME_TRANSMIT_END (R147, R150). -/
def execFrameTransmitEnd (p : Port) (s : State) : Host.Outcome State Fault Refusal :=
  taken s fun s => s.updPort p PortState.endFrame

/-- The retransmit timer expires (R151, R153, R154). -/
def retransmitExpires (p : Port) (s : State) : State :=
  if (s.port p).mayExpire ∧ (s.port p).window ≠ [] then
    callRound p (s.updPort p fun P => { P with retransmit := none, expiryNow := .byTimer })
  else s

/-- RETRANSMIT_TIMEOUT (R151): a stopped timer has no expiry, and neither has one that an acknowledgement of this very moment has
restarted (R153; log 31). -/
def execRetransmitTimeout (p : Port) (s : State) : Host.Outcome State Fault Refusal := taken s (retransmitExpires p)

/-! ## Link break -/

/-- The Link Port sees a break (R155, R160): the receiver enters HUNT, the frame on the transmitter is cut off, the cause
becomes BREAK. -/
def PortState.seeBreak (P : PortState) : PortState :=
  { P with receiver := .hunt, tx := none, breakReported := true, spaceTime := 10 * ms, cause := .linkBreak }

/-- The session layer hears of a break (R155, R158, R168). A port that is UP only to deliver a refused OPEN has no session to
lose (R164; log 12). -/
def breakSession (p : Port) (s : State) : State :=
  if (s.port p).hasSession then sessionLoss p .linkBreak .suspended s
  else if (s.port p).session = .closed then s.updPort p (PortState.closed .suspended)
  else endOrderly .suspended p s

/-- LINK_BREAK (R155): one report for a space period. Until BREAK_LINE_MARK the receiver then finds nothing (`received`). -/
def execLinkBreak (p : Port) (s : State) : Host.Outcome State Fault Refusal :=
  taken s fun s => if (s.port p).breakReported then s else breakSession p (s.updPort p PortState.seeBreak)

/-- The receive line returns to mark after a break (R155, R158). -/
def PortState.seeMark (P : PortState) : PortState :=
  if P.breakReported then
    { P with
      breakReported := false, spaceTime := 0, announce := if P.announce = .suspended then .due else P.announce }
  else P

/-- BREAK_LINE_MARK (R158). -/
def execBreakLineMark (p : Port) (s : State) : Host.Outcome State Fault Refusal :=
  taken s fun s => s.updPort p PortState.seeMark

/-! ## ANNOUNCE -/

/-- The port letter (R159). -/
def portLetter : Port → Byte
  | .A => 0x41
  | .B => 0x42

/-- The ANNOUNCE payload (R159). -/
def announcePayload (p : Port) (s : State) : List Byte :=
  leBytes 2 Config.familyCode ++ [byte Config.revision, portLetter p, resetCauseCode (s.port p).cause] ++
    leBytes 3 s.seconds.toNat

/-- The ANNOUNCE frame (R158). -/
def announceFrame (p : Port) (s : State) : Frame :=
  { ftype := .announce, seq := 0, info := 0, payload := announcePayload p s }

/-- The schedule is due, or counts down to the moment at which it is. -/
def Schedule.mayFallDue : Schedule → Bool
  | .due => true
  | .waiting _ => true
  | .stopped => false
  | .suspended => false

/-- An ANNOUNCE frame begins (R158): the next is due 1 s after its start. -/
def beginAnnounce (p : Port) (s : State) : State :=
  s.updPort p fun P =>
    { P with tx := some { frame := announceFrame p s, live := false }, announce := .waiting (1000 * ms) }

/-- The port may begin an ANNOUNCE frame (R158). -/
def PortState.mayAnnounce (P : PortState) : Bool := P.session == .closed && P.announce.mayFallDue && P.txFree

/-- ANNOUNCE (R158). -/
def execAnnounce (p : Port) (s : State) : Host.Outcome State Fault Refusal :=
  taken s fun s => if (s.port p).mayAnnounce then beginAnnounce p s else s

/-! ## Silence, and the pending soft reset -/

/-- SILENCE_EXPIRY (R167): a stopped timer has no expiry, and neither has one that a valid frame of this very moment has restarted
(log 31). -/
def execSilenceExpiry (p : Port) (s : State) : Host.Outcome State Fault Refusal :=
  taken s fun s => if (s.port p).silence.isSome && !(s.port p).heardNow then sessionLoss p .silence .due s else s

/-- DEVICE_RESET_TIMEOUT (R184): the 100 ms of a pending soft reset have passed. -/
def execDeviceResetTimeout (p : Port) (s : State) : Host.Outcome State Fault Refusal :=
  taken s fun s => if (s.port p).resetPending && (s.port p).resetTimer.isSome then softReset s else s

end Sys2Proof.Machine
end

