-- ==== Sys2Proof/Machine/Dispatch.lean ====
section
/-! DEFINITION. One arm per command: the meaning it has. -/

namespace Sys2Proof.Machine

def exec (i : Instr) (s : State) : Host.Outcome State Fault Refusal :=
  match i with
  | .hardReset cause => Sys2Proof.Machine.execHardReset cause s
  | .resetRelease rate1 rate0 => Sys2Proof.Machine.execResetRelease rate1 rate0 s
  | .sampleInstant raw => Sys2Proof.Machine.execSampleInstant raw s
  | .acceptedLevelChange line => Sys2Proof.Machine.execAcceptedLevelChange line s
  | .settleReport line => Sys2Proof.Machine.execSettleReport line s
  | .holdoffExpiry line => Sys2Proof.Machine.execHoldoffExpiry line s
  | .serviceTimerExpiry route => Sys2Proof.Machine.execServiceTimerExpiry route s
  | .formBatch port => Sys2Proof.Machine.execFormBatch port s
  | .reoffer port => Sys2Proof.Machine.execReoffer port s
  | .placeReply port => Sys2Proof.Machine.execPlaceReply port s
  | .routeLost port => Sys2Proof.Machine.execRouteLost port s
  | .routeGained port => Sys2Proof.Machine.execRouteGained port s
  | .actionPending port => Sys2Proof.Machine.execActionPending port s
  | .actionEnded port => Sys2Proof.Machine.execActionEnded port s
  | .graceExpiry action => Sys2Proof.Machine.execGraceExpiry action s
  | .pulseExpiry action => Sys2Proof.Machine.execPulseExpiry action s
  | .syncByte port => Sys2Proof.Machine.execSyncByte port s
  | .frameHeaderReceived port bytes => Sys2Proof.Machine.execFrameHeaderReceived port bytes s
  | .payloadBad port ftype bytes => Sys2Proof.Machine.execPayloadBad port ftype bytes s
  | .interByteGap port => Sys2Proof.Machine.execInterByteGap port s
  | .framingError port => Sys2Proof.Machine.execFramingError port s
  | .dataFrameReceived port seq info payload => Sys2Proof.Machine.execDataFrameReceived port seq info payload s
  | .ackFrameReceived port seq info payload => Sys2Proof.Machine.execAckFrameReceived port seq info payload s
  | .announceFrameReceived port seq info payload => Sys2Proof.Machine.execAnnounceFrameReceived port seq info payload s
  | .ackDelayExpiry port => Sys2Proof.Machine.execAckDelayExpiry port s
  | .transmitAckFrame port => Sys2Proof.Machine.execTransmitAckFrame port s
  | .transmitDataFrame port => Sys2Proof.Machine.execTransmitDataFrame port s
  | .frameTransmitEnd port => Sys2Proof.Machine.execFrameTransmitEnd port s
  | .retransmitTimeout port => Sys2Proof.Machine.execRetransmitTimeout port s
  | .linkBreak port => Sys2Proof.Machine.execLinkBreak port s
  | .breakLineMark port => Sys2Proof.Machine.execBreakLineMark port s
  | .announce port => Sys2Proof.Machine.execAnnounce port s
  | .silenceExpiry port => Sys2Proof.Machine.execSilenceExpiry port s
  | .deviceResetTimeout port => Sys2Proof.Machine.execDeviceResetTimeout port s
  | .openSession port seq rest => Sys2Proof.Machine.execOpenSession port seq rest s
  | .close port rest => Sys2Proof.Machine.execClose port rest s
  | .ping port rest => Sys2Proof.Machine.execPing port rest s
  | .dormant port rest => Sys2Proof.Machine.execDormant port rest s
  | .status port rest => Sys2Proof.Machine.execStatus port rest s
  | .deviceReset port rest => Sys2Proof.Machine.execDeviceReset port rest s
  | .getTime port rest => Sys2Proof.Machine.execGetTime port rest s
  | .setTime port rest => Sys2Proof.Machine.execSetTime port rest s
  | .sourceSet port rest => Sys2Proof.Machine.execSourceSet port rest s
  | .sourceGet port rest => Sys2Proof.Machine.execSourceGet port rest s
  | .lineRead port rest => Sys2Proof.Machine.execLineRead port rest s
  | .routeSet port rest => Sys2Proof.Machine.execRouteSet port rest s
  | .routeGet port rest => Sys2Proof.Machine.execRouteGet port rest s
  | .claimRoute port rest => Sys2Proof.Machine.execClaimRoute port rest s
  | .releaseRoute port rest => Sys2Proof.Machine.execReleaseRoute port rest s
  | .resumeRoute port rest => Sys2Proof.Machine.execResumeRoute port rest s
  | .serviceDone port rest => Sys2Proof.Machine.execServiceDone port rest s
  | .actionSet port rest => Sys2Proof.Machine.execActionSet port rest s
  | .actionGet port rest => Sys2Proof.Machine.execActionGet port rest s
  | .cancelAction port rest => Sys2Proof.Machine.execCancelAction port rest s
  | .setOutput port rest => Sys2Proof.Machine.execSetOutput port rest s
  | .clearOutput port rest => Sys2Proof.Machine.execClearOutput port rest s
  | .historyRead port rest => Sys2Proof.Machine.execHistoryRead port rest s
  | .badCode port code rest => Sys2Proof.Machine.execBadCode port code rest s
  | .skipComplete port => Sys2Proof.Machine.execSkipComplete port s

end Sys2Proof.Machine
end

