-- ==== Sys2Proof/Machine/Step.lean ====
section
/-! DEFINITION. One step: the command at the front of the queue, or one microsecond when none waits (log 1). -/

namespace Sys2Proof.Machine

/-- What happens while no command waits: what the Source Table still holds is handed on (log 8), and one microsecond of the
internal time reference passes (log 1). In hard reset time stands still (R36, R160). -/
def idle (s : State) : State := if s.hardReset.isSome then s else (handOnHeld s).tick

/-- One step of the part. -/
def step (s : State) : Host.Outcome State Fault Refusal :=
  match s.pending with
  | [] => .next (idle s)
  | i :: rest => exec i { s with pending := rest }

/-- The command that a word spells, put at the front of the queue; no row of the table gives bits, so no word spells one. -/
def State.withFetchWord (s : State) (nbits w : Nat) : State :=
  match decodeTableWord nbits w with
  | some i => { s with pending := i :: s.pending }
  | none => s

end Sys2Proof.Machine
end

