-- ==== Sys2Proof/Safety.lean ====
section
/-! DEFINITION. The words the statements are written in: when a request is taken, what a reply leaves, what handing on keeps, and
the invariants of the part. -/

namespace Sys2Proof.Machine

/-! ## Commands and requests -/

/-- The part is not held in hard reset. -/
abbrev State.running (s : State) : Prop := s.hardReset = none

/-- The request with this code and these bytes after it is the one that the port's decoder takes next (R142, R178; log 4). -/
def Takes (p : Port) (code : Byte) (rest : List Byte) (s : State) : Prop :=
  s.running ∧
    ((∃ q qs, (s.port p).accepted = q :: qs ∧ q.payload = code :: rest ∧ (s.port p).session ≠ .closed) ∨
      ((s.port p).accepted = [] ∧ (s.port p).session = .up ∧ (s.port p).placesUsed < 8))

/-- The part with the oldest accepted request of a port gone. -/
def State.afterTake (p : Port) (s : State) : State := s.updPort p fun P => { P with accepted := P.accepted.drop 1 }

/-- The part with a reply at the tail of a port's backlog. -/
def State.withReply (p : Port) (message : List Byte) (s : State) : State :=
  s.updPort p fun P => { P with backlog := P.backlog ++ [{ message := message, role := .plain }] }

/-- The part after a request that changes nothing but the accepted requests and the backlog of its port. -/
def State.answered (p : Port) (message : List Byte) (s : State) : State := (s.afterTake p).withReply p message

/-- The occurrence folds into no record of the route: it may not coalesce, or no PENDING record there is of its source (R29, R30). -/
abbrev NothingToFold (o : Occurrence) (r : RouteNo) (s : State) : Prop :=
  o.coalesce = true → ∀ x ∈ (s.route r).queue, ¬(x.state = .pending ∧ x.source = o.source)

/-- A record is available to the occurrence's source (R28). -/
abbrev RecordAvailable (o : Occurrence) (s : State) : Prop :=
  0 < s.store.freeGeneral ∨ (48 ≤ o.source.val ∧ 0 < s.store.freeReserve)

/-- The part after a full route has reported its overflow, which it does not for an occurrence of source 50 (R52). -/
def overflowReported (o : Occurrence) (r : RouteNo) (s : State) : State :=
  if o.source.val = 50 then s else s.raise 50 (BitVec.ofNat 16 r.val)

/-- A port that has heard a valid frame within its session (R138, R167, R171): the receiver is in HUNT, a DORMANT port is UP, the
silence timer starts for the full limit where it runs, and an expiry of it at this moment does not happen. -/
def PortState.heard (P : PortState) : PortState :=
  { P with
    receiver := .hunt
    session := if P.session = .dormant then .up else P.session
    silence := if P.params.silenceLimit ≠ 0 ∧ P.closing = false then some (P.params.silenceLimit * 100000) else P.silence
    heardNow := true }

/-! ## What handing on keeps -/

/-- What no occurrence and no close report changes, however many are handed on (R7, R8). -/
structure KeptByHandOn (s t : State) : Prop where
  pending : t.pending = s.pending
  hardReset : t.hardReset = s.hardReset
  rate1 : t.rate1 = s.rate1
  rate0 : t.rate0 = s.rate0
  timebase : t.timebase = s.timebase
  micro : t.micro = s.micro
  seconds : t.seconds = s.seconds
  sampleTime : t.sampleTime = s.sampleTime
  lines : t.lines = s.lines
  arrivals : t.arrivals = s.arrivals
  sourceCfg : ∀ i, (t.source i).cfg = (s.source i).cfg
  route : ∀ r, { t.route r with queue := (s.route r).queue, lost := (s.route r).lost } = s.route r
  action : ∀ n, { t.action n with state := (s.action n).state, graceNo := (s.action n).graceNo } = s.action n
  port : ∀ p, { t.port p with actionNotices := (s.port p).actionNotices, told := (s.port p).told } = s.port p

/-! ## Invariants -/

/-- Number of records queued on a list of routes. -/
def queuedOn (s : State) (rs : List RouteNo) : Nat := (rs.map fun r => (s.route r).queue.length).sum

/-- Number of records queued on all routes. -/
def State.queued (s : State) : Nat := queuedOn s allRoutes

/-- The pools (R26, R28): the counts are in range, the reserve is full while the general part has records, and free and queued
records are 256 together. -/
def State.poolsAgree (s : State) : Prop :=
  s.store.freeGeneral ≤ 248 ∧ s.store.freeReserve ≤ 8 ∧ (0 < s.store.freeGeneral → s.store.freeReserve = 8) ∧
    s.store.freeGeneral + s.store.freeReserve + s.queued = 256

/-- No queue holds more records than its route's depth, which is 1 to 64 (R43, R48). -/
def State.queuesFit (s : State) : Prop :=
  ∀ r, 1 ≤ (s.route r).cfg.depth ∧ (s.route r).cfg.depth ≤ 64 ∧ (s.route r).queue.length ≤ (s.route r).cfg.depth

/-- The sequence counter never holds 0 (R27). -/
def State.counterNotZero (s : State) : Prop := s.store.nextSeq ≠ 0

/-- The ring holds at most 64 entries, and their close numbers run on without a gap and end just below the counter (R39). -/
def History.consecutive (h : History) : Prop :=
  h.entries.length ≤ 64 ∧
    ∀ (k : Nat) (hk : k < h.entries.length),
      h.entries[k].closeNo = h.counter - BitVec.ofNat 16 (h.entries.length - k)

/-- Every record counts 1 to 255 occurrences and stands in the queue of its own route, and every tally is at most 65 535 (R25,
R46, R53). -/
def State.recordsInRange (s : State) : Prop :=
  ∀ r, (s.route r).lost ≤ 65535 ∧ ∀ x ∈ (s.route r).queue, 1 ≤ x.count ∧ x.count ≤ 255 ∧ x.route = r

/-- Replies and reserved places of a port are never more than 8 together, and a CLOSED port has none (R156, R179). -/
def State.placesWithinEight (s : State) : Prop :=
  ∀ p, (s.port p).placesUsed ≤ 8 ∧ ((s.port p).session = .closed → (s.port p).placesUsed = 0)

/-- No send window holds more frames than the agent's window W, which is 1 to 4 (R148, R162). -/
def State.windowsFit (s : State) : Prop :=
  ∀ p, 1 ≤ (s.port p).params.window ∧ (s.port p).params.window ≤ 4 ∧ (s.port p).window.length ≤ (s.port p).params.window

/-- Settings are in the ranges their requests check (R4, R43, R113, R162). -/
def State.settingsInRange (s : State) : Prop :=
  (∀ i, (s.source i).cfg.holdoff ≤ 255) ∧
    (∀ r, (s.route r).cfg.priority ≤ 3 ∧ 1 ≤ (s.route r).cfg.batchMax ∧ (s.route r).cfg.batchMax ≤ 16 ∧
      (s.route r).cfg.serviceTimeout ≤ 255 ∧ (s.route r).cfg.retries ≤ 7) ∧
    (∀ n, 1 ≤ (s.action n).cfg.grace ∧ (s.action n).cfg.grace ≤ 255) ∧
    ∀ p, 64 ≤ (s.port p).params.maxPayload ∧ (s.port p).params.maxPayload ≤ 1024 ∧
      (s.port p).params.silenceLimit ≤ 255 ∧ 1 ≤ (s.port p).params.retransmit ∧ (s.port p).params.retransmit ≤ 255

/-- A queue is an offered prefix of `n` records and PENDING records behind it (R47). -/
def offeredPrefix (n : Nat) (queue : List Rec) : Prop :=
  n ≤ queue.length ∧ (∀ x ∈ queue.take n, x.state = .offered) ∧ ∀ x ∈ queue.drop n, x.state = .pending

/-- A route without a batch offers nothing and runs no timer; a route with one offers its first n records, is not stalled, and
belongs to a port whose session is UP (R47, R54, R67). -/
def State.batchesAgree (s : State) : Prop :=
  ∀ r,
    match (s.route r).batch with
    | none => offeredPrefix 0 (s.route r).queue ∧ (s.route r).timer = none
    | some b =>
      1 ≤ b.n ∧ offeredPrefix b.n (s.route r).queue ∧ (s.route r).stalled = false ∧ b.attempts ≤ b.retriesLimit ∧
        (b.phase ≠ .timing → (s.route r).timer = none) ∧ b.tag = (s.route r).tagCounter ∧
        ∃ p, (s.route r).owner = some p ∧ (s.port p).session = .up

/-- A CLOSED port holds no delivery state and no flag, a DORMANT port has nothing outstanding, and a port whose reported break
stands is CLOSED, in HUNT, has no request waiting, and its ANNOUNCE is suspended (R155, R156, R157, R158, R170, R171). -/
def PortState.quietOutsideSession (P : PortState) : Prop :=
  (P.session = .closed →
    P.window = [] ∧ P.backlog = [] ∧ P.retransmit = none ∧ P.silence = none ∧ P.report = .clear ∧ P.ackOwed = .clear ∧
      P.ackDemand = false ∧ P.closing = false ∧ P.refusing = false ∧ P.routeNotices = Vector.replicate 8 .none ∧
      P.actionNotices = Vector.replicate 16 .none ∧ P.told = Vector.replicate 16 false) ∧
    (P.session = .dormant → P.window = [] ∧ P.backlog = [] ∧ P.accepted = [] ∧ P.retransmit = none ∧ P.silence = none) ∧
    (P.breakReported = true → P.session = .closed ∧ P.receiver = .hunt ∧ P.accepted = [] ∧ P.announce = .suspended)

/-- Both ports. -/
def State.quietOutsideSessions (s : State) : Prop := ∀ p, (s.port p).quietOutsideSession

end Sys2Proof.Machine
end

