-- ==== Sys2Proof/Certificates/Slice0/Obligations.lean ====
section
/-! DEFINITION. The statements for the provers. Where a command hands occurrences on, its statement gives the state `u` before
the hand-off in full and says that the step answers `handOnHeld u`; `ReportedConditionIsHeld` says which items that hands on and
in which order, and the statements about `offer`, `handOn`, `takeCloseReport` and what handing on keeps say what each does. -/

open Sys2Proof Sys2Proof.Machine

/-! ## The machine -/

/-- A step takes the command at the front of the queue and runs it on the part with the rest of the queue. -/
def Obligations.StepRunsTheFrontCommand : Prop :=
  ∀ (c : Instr) (rest : List Instr) (s : State),
    step { s with pending := c :: rest } = exec c { s with pending := rest }

/-- With no command waiting, a step is one microsecond of the time reference (R36, R160; the model's choice, log 1): what the
Source Table still holds is handed on first (log 8), and then the Timebase, the seconds count and every running timer move: holdoff
(R6), service (R77), grace and pulse (R114), acknowledgement owed (R146), retransmit (R150), silence (R167), ANNOUNCE (R158), the
100 ms of a pending soft reset (R184) and the time at space of a reported break (R155; log 23). A timer waits at its last
microsecond for its expiry command (log 2), and what acknowledgements and frames have precluded at one moment is over (R153, R167;
log 31). Nothing else changes. In hard reset nothing moves (log 24). -/
def Obligations.IdleStepIsOneMicrosecond : Prop :=
  ∀ s : State, s.pending = [] →
    (s.hardReset ≠ none → step s = .next s) ∧
    (s.running →
      let u := handOnHeld s
      let moves := fun left : Nat => if left ≤ 1 then 1 else left - 1
      (s.held = [] → u = s) ∧
      ∃ t, step s = .next t ∧ t.timebase = u.timebase + 1 ∧
        t.seconds = (if u.micro < 999999 then u.seconds else u.seconds + 1) ∧
        t.micro = (if u.micro < 999999 then u.micro + 1 else 0) ∧ t.pending = [] ∧ t.hardReset = none ∧ t.rate1 = u.rate1 ∧
        t.rate0 = u.rate0 ∧ t.sampleTime = u.sampleTime ∧ t.lines = u.lines ∧ t.held = u.held ∧ t.store = u.store ∧
        t.history = u.history ∧ t.arrivals = u.arrivals ∧
        (∀ i, t.source i =
          { u.source i with
            state :=
              match (u.source i).state with
              | .holdoff left => .holdoff (moves left)
              | x => x }) ∧
        (∀ r, t.route r = { u.route r with timer := (u.route r).timer.map moves }) ∧
        (∀ n, t.action n =
          { u.action n with
            state :=
              match (u.action n).state with
              | .idle => .idle
              | .grace left => .grace (moves left)
              | .fired cause pulse => .fired cause (pulse.map moves) }) ∧
        ∀ p, t.port p =
          { u.port p with
            ackOwed :=
              match (u.port p).ackOwed with
              | .waiting left => .waiting (moves left)
              | x => x
            retransmit := (u.port p).retransmit.map moves
            silence := (u.port p).silence.map moves
            announce :=
              match (u.port p).announce with
              | .waiting left => .waiting (moves left)
              | x => x
            resetTimer := (u.port p).resetTimer.map moves
            spaceTime := if (u.port p).breakReported then (u.port p).spaceTime + 1 else (u.port p).spaceTime
            expiryNow := .byTimer, heardNow := false })

/-- Every command answers a next state, and none touches the queue of commands. The model's choices: commands whose condition
does not hold leave the state as it is, log 2; the queue is the model's own, and hard reset, its release and the soft reset keep
it too, log 25. -/
def Obligations.EveryCommandAnswersANextState : Prop :=
  ∀ (c : Instr) (s : State), ∃ t, exec c s = .next t ∧ t.pending = s.pending

/-- HARD_RESET holds the part in reset with the pins of R131 and R173, whatever it was doing; RESET_RELEASE samples the straps
and gives every block its hard-reset values (R4, R5, R23, R35, R36, R42, R43, R64, R113, R131, R135, R157, R160, R173, R179, R184,
R187, R188). The model's choices: hard resets that meet, and a release without hard reset, which has no effect, log 24; the break
detector's time, log 23; raw levels, candidates and sequence values after the release, logs 6 and 21, are not stated. -/
def Obligations.HardResetAndRelease : Prop :=
  ∀ (c : HardCause) (r1 r0 : Bool) (s : State),
    (∃ t, exec (.hardReset c) s = .next t ∧
      t.hardReset = (if s.hardReset = some .powerOn then some .powerOn else some c) ∧
      (∀ n, t.outPin n = .highImpedance) ∧ (∀ p, t.wakePin p = .highImpedance) ∧ t.txHeldAtMark = true ∧ t.timebase = 0) ∧
    (s.running → exec (.resetRelease r1 r0) s = .next s) ∧
    (s.hardReset = some c →
      ∃ t, exec (.resetRelease r1 r0) s = .next t ∧ t.hardReset = none ∧ t.rate1 = r1 ∧ t.rate0 = r0 ∧ t.timebase = 0 ∧
        t.seconds = 0 ∧ t.micro = 0 ∧ t.held = [] ∧
        t.store = { freeGeneral := 248, freeReserve := 8, lowArmed := true, nextSeq := 1 } ∧
        t.history = { entries := [], counter := 0 } ∧
        (∀ i, ∃ candidate, (t.line i).filter = .unsettled candidate 0) ∧
        (∀ i, t.source i =
          if i.val < 48 then
            { cfg := { mode := .off, filter := .ms4, route := some 0, coalesce := false, holdoff := 10 }, state := .off }
          else
            { cfg := { mode := .on, filter := .none, route := some 7, coalesce := true, holdoff := 0 }, state := .watch }) ∧
        (∀ r, t.route r =
          { cfg := { priority := if r = 7 then 0 else 2, depth := 32, policy := .dropOld, batchMax := 8,
                     serviceTimeout := 20, retries := 2, wake := false, failover := false, takeover := false,
                     masked := false },
            owner := none, queue := [], stalled := false, lost := 0, tagCounter := 0, batch := none, timer := none }) ∧
        (∀ n, t.action n =
          { cfg := { trigger := none, kind := .manual, grace := 50, shape := .level, width := .ms100, activeHigh := false,
                     pushPull := false },
            state := .idle, graceNo := 0, graceEnd := none }) ∧
        (∀ p, (t.port p).session = .closed ∧ (t.port p).sessionNo = 0 ∧ (t.port p).closing = false ∧
          (t.port p).silence = none ∧ (t.port p).announce = .due ∧
          (t.port p).cause = (match c with
            | .powerOn => .powerOn
            | .pin => .pin) ∧
          (t.port p).receiver = .hunt ∧ (t.port p).report = .clear ∧ (t.port p).ackOwed = .clear ∧
          (t.port p).ackDemand = false ∧ (t.port p).window = [] ∧ (t.port p).retransmit = none ∧ (t.port p).attempts = 0 ∧
          (t.port p).expiryNow = .byTimer ∧ (t.port p).heardNow = false ∧
          (t.port p).round = [] ∧ (t.port p).roundsDue = 0 ∧ (t.port p).tx = none ∧
          (t.port p).params = { maxPayload := 64, window := 1, silenceLimit := 0, retransmit := 5 } ∧
          (t.port p).spaceTime = 0 ∧ (t.port p).breakReported = false ∧ (t.port p).refusing = false ∧
          (t.port p).resetPending = false ∧ (t.port p).resetTimer = none ∧ (t.port p).accepted = [] ∧
          (t.port p).backlog = [] ∧ (∀ r : RouteNo, (t.port p).routeNotices[r.val] = .none) ∧
          (∀ n : ActionNo, (t.port p).actionNotices[n.val] = .none ∧ (t.port p).told[n.val] = false) ∧
          t.wake p = false))

/-- The straps as sampled give the bit rate, and no command but HARD_RESET and RESET_RELEASE changes them (R187); the Timebase
is moved by no command but those two and SET_TIME, and the seconds count by none but those two (R36, R160). The owner of a
route changes at a claim, a release and a session loss alone (R44, R93), and otherwise at hard reset; a session loss comes by
silence, retry limit or link break (R168). The model's choices: time moves only in a step with no command, log 1. -/
def Obligations.SettingsMoveByTheirCommandsAlone : Prop :=
  ((∀ s : State, s.bitRate =
    if s.rate1 then (if s.rate0 then 3000000 else 1000000) else (if s.rate0 then 460800 else 115200)) ∧
  ∀ (c : Instr) (s t : State), exec c s = .next t → (∀ k, c ≠ .hardReset k) → (∀ a b, c ≠ .resetRelease a b) →
    t.rate1 = s.rate1 ∧ t.rate0 = s.rate0 ∧ t.seconds = s.seconds ∧ t.micro = s.micro ∧
      ((∀ p rest, c ≠ .setTime p rest) → t.timebase = s.timebase)) ∧
  ∀ (c : Instr) (s t : State), exec c s = .next t →
    (match c with
      | .hardReset _ => False
      | .resetRelease _ _ => False
      | .claimRoute _ _ => False
      | .releaseRoute _ _ => False
      | .silenceExpiry _ => False
      | .retransmitTimeout _ => False
      | .ackFrameReceived _ _ _ _ => False
      | .linkBreak _ => False
      | _ => True) →
    ∀ r, (t.route r).owner = (s.route r).owner

/-! ## Event lines -/

/-- SAMPLE_INSTANT (R1, R2, R3): every line takes its sample, whatever its source's mode. A line's filter length N is 1, 8, 32, 128
or 512 samples by the setting of its source; its change or settle report is due when its run or candidate count reaches N, and
`firstDue` is the lowest line with one due. The model's choices: the lowest line first, and a sample waits while a change is due,
log 9. -/
def Obligations.SampleInstantUpdatesEveryLine : Prop :=
  (∀ s : State,
    let length := fun i : LineNo =>
      match (s.source ⟨i.val, by omega⟩).cfg.filter with
      | .none => 1
      | .ms1 => 8
      | .ms4 => 32
      | .ms16 => 128
      | .ms64 => 512
    let due := fun i : LineNo =>
      match (s.line i).filter with
      | .settled _ run => length i ≤ run
      | .unsettled _ count => length i ≤ count
    (s.firstDue = none ↔ ∀ i, ¬due i) ∧ ∀ i, s.firstDue = some i ↔ due i ∧ ∀ j, j < i → ¬due j) ∧
  ∀ (raw : BitVec 48) (s : State), s.running → s.firstDue = none →
    exec (.sampleInstant raw) s = .next
      { s with
        sampleTime := s.timebase
        lines := Vector.ofFn fun i : LineNo =>
          { raw := raw.getLsb i
            filter :=
              match (s.line i).filter with
              | .settled level run => .settled level (if raw.getLsb i = level then 0 else run + 1)
              | .unsettled candidate count =>
                if count = 0 then .unsettled (raw.getLsb i) 1
                else if raw.getLsb i = candidate then .unsettled candidate (count + 1)
                else .unsettled (raw.getLsb i) 1 } }

/-- ACCEPTED_LEVEL_CHANGE (R2, R9 to R14): the filtered level takes the raw level, the run count is 0, and the line's source
makes the occurrence that its mode and state ask for, stamped with the sample instant. The model's choices: which line is due
first (as `SampleInstantUpdatesEveryLine` says), log 9; the hand-off, log 8. -/
def Obligations.AcceptedChangeReachesItsSource : Prop :=
  ∀ (i : LineNo) (level : Bool) (run : Nat) (s : State), s.running → s.firstDue = some i →
    (s.line i).filter = .settled level run →
    let src : SourceNo := ⟨i.val, by omega⟩
    let new := (s.line i).raw
    let s1 := s.updLine i fun l => { l with filter := .settled l.raw 0 }
    let cfg := (s.source src).cfg
    let makes := fun k : Kind => exec (.acceptedLevelChange i) s = .next (handOnHeld (handOn
      { source := src, kind := k, detail := 0, time := s.sampleTime, route := cfg.route, coalesce := cfg.coalesce } s1))
    let quiet := exec (.acceptedLevelChange i) s = .next (handOnHeld s1)
    let rests := exec (.acceptedLevelChange i) s =
      .next (handOnHeld (s1.updSource src fun t => { t with state := .watch }))
    (cfg.mode = .off → quiet) ∧
    (cfg.mode = .rise → if new then makes .rise else quiet) ∧
    (cfg.mode = .fall → if new then quiet else makes .fall) ∧
    (cfg.mode = .both → if new then makes .rise else makes .fall) ∧
    (∀ active : Bool, (cfg.mode = .high ∧ active = true ∨ cfg.mode = .low ∧ active = false) →
      match (s.source src).state with
      | .watch => if new = active then makes .active else quiet
      | .raised (some _) => quiet
      | .raised none => if new = active then quiet else rests
      | .holdoff _ => if new = active then quiet else rests
      | .off => quiet)

/-- SETTLE_REPORT (R3, R10, R11): the line settles at its candidate, and only a level source in WATCH whose line settles
active makes an occurrence. The model's choices: which line is due first, log 9; the hand-off, log 8. -/
def Obligations.SettleReportReachesItsSource : Prop :=
  ∀ (i : LineNo) (candidate : Bool) (count : Nat) (s : State), s.running → s.firstDue = some i →
    (s.line i).filter = .unsettled candidate count →
    let src : SourceNo := ⟨i.val, by omega⟩
    let s1 := s.updLine i fun l => { l with filter := .settled candidate 0 }
    let cfg := (s.source src).cfg
    exec (.settleReport i) s = .next (handOnHeld
      (if (s.source src).state = .watch ∧ (cfg.mode = .high ∧ candidate = true ∨ cfg.mode = .low ∧ candidate = false) then
        handOn { source := src, kind := .active, detail := 0, time := s.sampleTime, route := cfg.route,
                 coalesce := cfg.coalesce } s1
      else s1))

/-- HOLDOFF_EXPIRY (R14): REARM, with the time stamp of the expiry. The model's choices: the command may come at any moment
while the timer runs, log 2; the hand-off, log 8. -/
def Obligations.HoldoffExpiryRearms : Prop :=
  ∀ (i : LineNo) (left : Nat) (s : State), s.running → (s.source ⟨i.val, by omega⟩).state = .holdoff left →
    exec (.holdoffExpiry i) s = .next (handOnHeld (handOn
      { source := ⟨i.val, by omega⟩, kind := .rearm, detail := 0, time := s.timebase,
        route := (s.source ⟨i.val, by omega⟩).cfg.route, coalesce := (s.source ⟨i.val, by omega⟩).cfg.coalesce } s))

/-! ## Occurrences -/

/-- A condition reported by a block becomes an INTERNAL occurrence of its source, held behind those held already, if the source is
ON; a source that is OFF has none (R8, R9, R15). What is held is handed on oldest first, each item with the rest still held, and
what it raises joins behind that rest (R8, R34); with nothing held a hand-off changes nothing; `handOnHeld` goes on until nothing
is held. The model's choices: the order, close reports included, and the bound of 4096 items in one step, log 8. -/
def Obligations.ReportedConditionIsHeld : Prop :=
  (∀ (i : SourceNo) (detail : Half) (s : State),
    ((s.source i).state = .off → s.raise i detail = s) ∧
    ((s.source i).state ≠ .off →
      s.raise i detail =
        { s with
          held := s.held ++
            [.occurrence { source := i, kind := .internal, detail := detail, time := s.timebase,
                           route := (s.source i).cfg.route, coalesce := true }] })) ∧
  (∀ s : State, handOnHeld s = handSome 4096 s ∧ handOnNow s = handSome s.held.length s) ∧
  (∀ (k : Nat) (s : State), handSome 0 s = s ∧ (s.held = [] → handSome k s = s) ∧
    ∀ (h : Held) (rest : List Held), s.held = h :: rest →
      handSome (k + 1) s =
        handSome k
          (match h with
          | .occurrence o => handOn o { s with held := rest }
          | .closeReport q i time => takeCloseReport q i time { s with held := rest })) ∧
  (∀ (o : Occurrence) (s : State), ∃ more, (handOn o s).held = s.held ++ more) ∧
  (∀ (q : Seq) (i : SourceNo) (time : Time) (s : State), ∃ more, (takeCloseReport q i time s).held = s.held ++ more) ∧
  ∀ (k : Nat) (s : State), k ≤ 4096 → (handSome k s).held = [] → handOnHeld s = handSome k s

/-- The Action Unit hears every occurrence, whatever became of it (R7, R116, R117, R118, R123): an IDLE action triggered by its
source fires or enters GRACE, and any other keeps its state. At both ports the told mark and the notice flag of an action that does
not enter GRACE stay as they were. Each firing reports ACTION_FIRED with its output and the cause
IMMEDIATE, in ascending output number, behind what the offer has left held; a source 53 that is OFF has none (R9). -/
def Obligations.ActionsHearEveryOccurrence : Prop :=
  (∀ (o : Occurrence) (s : State),
    (handOn o s).held =
      (match o.route with
        | none => s.held
        | some r => (offer o r s).2.held) ++
        if ((handOn o s).source 53).state = .off then []
        else ((List.finRange 16).filter fun n : ActionNo =>
            (s.action n).cfg.trigger = some o.source ∧ (s.action n).state = .idle ∧ (s.action n).cfg.kind = .immediate).map
          fun n => .occurrence
            { source := 53, kind := .internal, detail := BitVec.ofNat 16 (n.val + 256 * 1), time := s.timebase,
              route := (s.source 53).cfg.route, coalesce := true }) ∧
  ∀ (o : Occurrence) (s : State) (n : ActionNo),
    ((s.action n).cfg.trigger = some o.source → (s.action n).state = .idle → (s.action n).cfg.kind = .immediate →
      (handOn o s).action n =
        { s.action n with
          state := .fired .immediate
            (if (s.action n).cfg.shape = .pulse then some (pulseTime (s.action n).cfg.width) else none) }) ∧
    ((s.action n).cfg.trigger = some o.source → (s.action n).state = .idle → (s.action n).cfg.kind = .graced →
      (handOn o s).action n =
          { s.action n with
            state := .grace ((s.action n).cfg.grace * 100000)
            graceNo := if (s.action n).graceNo = 255 then 1 else (s.action n).graceNo + 1 } ∧
        ∀ p, ((handOn o s).port p).told[n.val] = false ∧
          ((handOn o s).port p).actionNotices[n.val] =
            if (s.port p).session = .closed then (s.port p).actionNotices[n.val] else .pending) ∧
    ((s.action n).cfg.trigger ≠ some o.source ∨ (s.action n).state ≠ .idle ∨ (s.action n).cfg.kind = .manual →
      (handOn o s).action n = s.action n) ∧
    ((s.action n).cfg.trigger ≠ some o.source ∨ (s.action n).state ≠ .idle ∨ (s.action n).cfg.kind ≠ .graced →
      ∀ p, ((handOn o s).port p).told[n.val] = (s.port p).told[n.val] ∧
        ((handOn o s).port p).actionNotices[n.val] = (s.port p).actionNotices[n.val])

/-- The answer decides the next state of a level source and of no other (R7, R10, R11): every other source stays as it was. An
occurrence on a route leaves the store, the routes and the history as its offer leaves them (R7, R29); one on route NONE is not
offered: no record, tally, count or history entry changes (R7). A close report (R13) acts on a source in RAISED that holds the
record it names, and on no other: WATCH when the line is not active, HOLDOFF for the holdoff when it is, and with holdoff 0 a
REARM occurrence at once, stamped with the time of the close. -/
def Obligations.AnswerDecidesTheLevelSource : Prop :=
  (∀ (o : Occurrence) (s : State),
    (∀ j, j ≠ o.source → (handOn o s).source j = s.source j) ∧
    (o.kind ≠ .active → o.kind ≠ .rearm → ((handOn o s).source o.source).state = (s.source o.source).state) ∧
    ((handOn o s).source o.source).cfg = (s.source o.source).cfg ∧
    (∀ r, o.route = some r →
      (handOn o s).store = (offer o r s).2.store ∧ (handOn o s).routes = (offer o r s).2.routes ∧
        (handOn o s).history = (offer o r s).2.history) ∧
    (o.route = none →
      (handOn o s).store = s.store ∧ (handOn o s).routes = s.routes ∧ (handOn o s).history = s.history ∧
        (o.kind = .active ∨ o.kind = .rearm → ((handOn o s).source o.source).state = .raised none)) ∧
    (∀ r, o.route = some r → (o.kind = .active ∨ o.kind = .rearm) →
      ((handOn o s).source o.source).state =
        match (offer o r s).1 with
        | .new q => .raised (some q)
        | .coalesced q => .raised (some q)
        | .lost =>
          .holdoff (if (s.source o.source).cfg.holdoff = 0 then 10000 else (s.source o.source).cfg.holdoff * 10000)
        | .routeNone => .raised none)) ∧
  ∀ (q : Seq) (i : SourceNo) (time : Time) (s : State),
    let cfg := (s.source i).cfg
    let active := ∃ (h : i.val < 48) (level : Bool) (run : Nat), (s.line ⟨i.val, h⟩).filter = .settled level run ∧
      (cfg.mode = .high ∧ level = true ∨ cfg.mode = .low ∧ level = false)
    ((s.source i).state ≠ .raised (some q) → takeCloseReport q i time s = s) ∧
    ((s.source i).state = .raised (some q) →
      (¬active → takeCloseReport q i time s = s.updSource i fun t => { t with state := .watch }) ∧
      (active → 0 < cfg.holdoff →
        takeCloseReport q i time s = s.updSource i fun t => { t with state := .holdoff (cfg.holdoff * 10000) }) ∧
      (active → cfg.holdoff = 0 →
        takeCloseReport q i time s =
          handOn { source := i, kind := .rearm, detail := 0, time := time, route := cfg.route, coalesce := cfg.coalesce }
            (s.updSource i fun t => { t with state := .raised none })))

/-- An occurrence that may coalesce folds into the newest PENDING record of its source on its route (R29, R30): the count rises to
at most 255, the last time moves, an internal occurrence replaces the detail, and nothing else changes. -/
def Obligations.OccurrenceFoldsIntoTheNewest : Prop :=
  ∀ (o : Occurrence) (r : RouteNo) (s : State) (front : List Rec) (x : Rec) (back : List Rec),
    o.coalesce = true → (s.route r).queue = front ++ x :: back → x.state = .pending → x.source = o.source →
    (∀ y ∈ back, ¬(y.state = .pending ∧ y.source = o.source)) →
    offer o r s =
      (.coalesced x.seq,
        s.updRoute r fun t =>
          { t with
            queue := front ++
              { x with
                count := if x.count < 255 then x.count + 1 else 255
                last := o.time
                detail := if o.kind = .internal then o.detail else x.detail } :: back })

/-- An occurrence that finds no record available is lost (R28, R29, R31): one is added to the route's tally, which saturates, and
nothing else changes; no overflow is reported. -/
def Obligations.OccurrenceIsLostWithoutARecord : Prop :=
  ∀ (o : Occurrence) (r : RouteNo) (s : State), NothingToFold o r s → ¬RecordAvailable o s →
    offer o r s = (.lost, s.updRoute r fun t => { t with lost := min (t.lost + 1) 65535 })

/-- A full DROP_NEW route refuses room (R49). -/
def Obligations.DropNewRefusesRoom : Prop :=
  ∀ (o : Occurrence) (r : RouteNo) (s : State), NothingToFold o r s → RecordAvailable o s →
    (s.route r).cfg.depth ≤ (s.route r).queue.length → (s.route r).cfg.policy = .dropNew →
    ∃ t, offer o r s = (.lost, t) ∧
      t = (overflowReported o r s).updRoute r (fun u => { u with lost := min (u.lost + 1) 65535 }) ∧
      (t.route r).queue = (s.route r).queue ∧ (t.route r).state = (s.route r).state

/-- A full DROP_OLD route whose records are all OFFERED refuses room, exactly as under DROP_NEW (R51). -/
def Obligations.DropOldWithAllOfferedRefusesRoom : Prop :=
  ∀ (o : Occurrence) (r : RouteNo) (s : State), NothingToFold o r s → RecordAvailable o s →
    (s.route r).cfg.depth ≤ (s.route r).queue.length → (s.route r).cfg.policy = .dropOld →
    (∀ x ∈ (s.route r).queue, x.state = .offered) →
    ∃ t, offer o r s = (.lost, t) ∧
      t = (overflowReported o r s).updRoute r (fun u => { u with lost := min (u.lost + 1) 65535 }) ∧
      (t.route r).queue = (s.route r).queue ∧ (t.route r).state = (s.route r).state

/-- A full DROP_OLD route closes its oldest PENDING record as DROPPED and gives room (R34, R50, R52): the record's count joins the
tally, its history entry carries the Timebase, the free counts end as they began, the new record stands at the tail, and the
overflow report comes before the close report. -/
def Obligations.DropOldMakesRoom : Prop :=
  ∀ (o : Occurrence) (r : RouteNo) (s : State) (offered : List Rec) (x : Rec) (rest : List Rec),
    NothingToFold o r s → RecordAvailable o s → s.poolsAgree →
    (s.route r).queue = offered ++ x :: rest → (∀ y ∈ offered, y.state = .offered) → x.state = .pending →
    (s.route r).cfg.depth ≤ (s.route r).queue.length → (s.route r).cfg.policy = .dropOld →
    ∃ t more, offer o r s = (.new s.store.nextSeq, t) ∧
      (t.route r).queue = offered ++ rest ++
        [{ seq := s.store.nextSeq, source := o.source, kind := o.kind, count := 1, detail := o.detail, first := o.time,
           last := o.time, route := r, state := .pending, redelivered := false }] ∧
      (t.route r).lost = min ((s.route r).lost + x.count) 65535 ∧ (t.route r).batch = (s.route r).batch ∧
      t.history.counter = s.history.counter + 1 ∧
      t.history.entries.getLast? = some
        { closeNo := s.history.counter, seq := x.seq, source := x.source, kind := x.kind, count := x.count,
          outcome := .dropped, first := x.first, closeTime := s.timebase } ∧
      t.store.freeGeneral = s.store.freeGeneral ∧ t.store.freeReserve = s.store.freeReserve ∧
      t.held = (overflowReported o r s).held ++ .closeReport x.seq x.source s.timebase :: more

/-- With a record available and room on the route, the record is created (R25, R27, R28, R32, R33): fields as of R25, sequence
number from the counter, appended PENDING at the tail; STORE_LOW is reported when the free general count becomes 16 with the
threshold armed. -/
def Obligations.RecordIsCreated : Prop :=
  ∀ (o : Occurrence) (r : RouteNo) (s : State), NothingToFold o r s → RecordAvailable o s →
    (s.route r).queue.length < (s.route r).cfg.depth →
    let low := s.store.lowArmed = true ∧ s.store.freeGeneral = 17
    offer o r s =
      (.new s.store.nextSeq,
        { (s.updRoute r fun t =>
            { t with
              queue := t.queue ++
                [{ seq := s.store.nextSeq, source := o.source, kind := o.kind, count := 1, detail := o.detail,
                   first := o.time, last := o.time, route := r, state := .pending, redelivered := false }] }) with
          store :=
            { freeGeneral := if 0 < s.store.freeGeneral then s.store.freeGeneral - 1 else 0
              freeReserve := if 0 < s.store.freeGeneral then s.store.freeReserve else s.store.freeReserve - 1
              lowArmed := if low then false else s.store.lowArmed
              nextSeq := if s.store.nextSeq = 4294967295#32 then 1 else s.store.nextSeq + 1 }
          held := if low then (s.raise 49 16).held else s.held })

/-- The frame of SAMPLE_INSTANT, ACCEPTED_LEVEL_CHANGE, SETTLE_REPORT and HOLDOFF_EXPIRY (R1, R2, R3, R7, R8, R14): beside the
lines and the time of the sample they leave alone all that handing on leaves alone (no owner, batch, timer, configuration,
session, window or backlog changes), and the last three change no line but their own. The model's choices: the hand-off, log
8. -/
def Obligations.LineCommandsKeepTheRest : Prop :=
  ∀ (c : Instr) (s t : State),
    ((∃ raw, c = .sampleInstant raw) ∨ ∃ i, c = .acceptedLevelChange i ∨ c = .settleReport i ∨ c = .holdoffExpiry i) →
    exec c s = .next t →
    KeptByHandOn { s with lines := t.lines, sampleTime := t.sampleTime } t ∧
      ((∀ raw, c ≠ .sampleInstant raw) →
        t.sampleTime = s.sampleTime ∧
          ∀ j, (c ≠ .acceptedLevelChange j → c ≠ .settleReport j → t.line j = s.line j) ∧ (t.line j).raw = (s.line j).raw)

/-! ## Service cycle and placing -/

/-- SERVICE_TIMER_EXPIRY (R78, R79, R80): a batch with attempts left waits for its re-offer; one without stalls the route,
whose OFFERED records return marked, and SERVICE_TIMEOUT is reported. The model's choices: the command may come at any moment
while the timer runs, log 2; the hand-off, log 8. -/
def Obligations.ServiceTimerReoffersOrStalls : Prop :=
  ∀ (r : RouteNo) (b : Batch) (left : Nat) (s : State), s.running → (s.route r).batch = some b →
    (s.route r).timer = some left →
    (b.attempts < b.retriesLimit →
      exec (.serviceTimerExpiry r) s = .next (s.updRoute r fun t =>
        { t with batch := some { b with attempts := b.attempts + 1, phase := .reofferDue }, timer := none })) ∧
    (b.retriesLimit ≤ b.attempts →
      exec (.serviceTimerExpiry r) s = .next (handOnHeld ((s.updRoute r fun t =>
        { t with
          queue := t.queue.map fun x => if x.state = .offered then { x with state := .pending, redelivered := true } else x
          batch := none, timer := none, stalled := true }).raise 48 (BitVec.ofNat 16 r.val))))

/-- The order of preference of a Delivery Scheduler (R181) and the choice among its routes (R57, R68, R69). The model's choice
(log 20): of two head records that one was created first whose sequence number lies further behind the sequence counter, counted
round from 4 294 967 295 to 1 (R27); an empty queue counts as number 0. -/
def Obligations.SchedulerChoosesInOrder : Prop :=
  ∀ (p : Port) (s : State),
    let P := s.port p
    let ready := fun r => (s.route r).owner = some p ∧ (s.route r).state = .ready ∧ (s.route r).cfg.masked = false
    let due := fun r => (s.route r).owner = some p ∧ ∃ b, (s.route r).batch = some b ∧ b.phase = .reofferDue
    let behind := fun r : RouteNo =>
      match (s.route r).queue with
      | x :: _ => (s.store.nextSeq.toNat + 4294967295 - x.seq.toNat) % 4294967295
      | [] => s.store.nextSeq.toNat % 4294967295
    let first := fun r => ∀ q, ready q ∨ due q → (s.route r).cfg.priority < (s.route q).cfg.priority ∨
      ((s.route r).cfg.priority = (s.route q).cfg.priority ∧ behind q ≤ behind r)
    (P.params.window ≤ P.window.length ∨ P.session = .closed ∨ P.session = .dormant → s.choice p = none) ∧
    (P.window.length < P.params.window → P.session = .up ∨ P.session = .enteringDormant →
      (∀ q rest, P.backlog = q :: rest → s.choice p = some (.reply q rest)) ∧
      (P.backlog = [] → P.session = .enteringDormant → s.choice p = none) ∧
      (P.backlog = [] → P.session = .up →
        (∀ r : RouteNo, P.routeNotices[r.val] ≠ .none → (∀ q : RouteNo, q < r → P.routeNotices[q.val] = .none) →
          s.choice p = some (.routeNotice r P.routeNotices[r.val])) ∧
        ((∀ r : RouteNo, P.routeNotices[r.val] = .none) →
          (∀ n : ActionNo, P.actionNotices[n.val] ≠ .none → (∀ m : ActionNo, m < n → P.actionNotices[m.val] = .none) →
            s.choice p = some (.actionNotice n P.actionNotices[n.val])) ∧
          ((∀ n : ActionNo, P.actionNotices[n.val] = .none) →
            (s.choice p = none ∧ ∀ r, ¬ready r ∧ ¬due r) ∨
              (∃ r, s.choice p = some (.newBatch r) ∧ ready r ∧ ¬due r ∧ first r) ∨
              ∃ r, s.choice p = some (.reoffer r) ∧ due r ∧ first r))))

/-- FORM_BATCH (R71 to R74, R148, section 10.4): when the scheduler's choice is a new batch on a route, its first n records
are OFFERED, the tag counter advances, and the NOTIFY joins the send window with the send sequence number. REOFFER (R74, R78):
the NOTIFY of the current batch is placed again under the same tag, with the REPEAT flag, and the batch awaits the
acknowledgement of the new frame. The model's choices: the command acts when it is the scheduler's choice, log 2. -/
def Obligations.BatchesAreOffered : Prop :=
  (∀ (p : Port) (r : RouteNo) (s : State), s.running → s.choice p = some (.newBatch r) →
    let t := s.route r
    let n := min t.cfg.batchMax (min t.queue.length (((s.port p).params.maxPayload - 8) / 21))
    let tag := if t.tagCounter = 255 then 1 else t.tagCounter + 1
    let batch := (t.queue.take n).map fun x => { x with state := .offered }
    exec (.formBatch p) s = .next ((s.updRoute r fun t =>
      { t with
        queue := batch ++ t.queue.drop n
        tagCounter := tag
        batch := some { tag := tag, n := n, snapshot := t.lost, retriesLimit := t.cfg.retries, attempts := 0,
                        phase := .awaitingAck, frame := (s.port p).sendSeq } }).updPort p fun P =>
      { P with
        sendSeq := P.sendSeq + 1
        window := P.window ++
          [{ seq := P.sendSeq, role := .notify r tag, sent := .waiting
             message := [0x40, 0, byte r.val, tag, if batch.any Rec.redelivered then 0x02 else 0x00] ++ leBytes 2 t.lost ++
               [byte n] ++ batch.flatMap fun x =>
                 leBytes 4 x.seq.toNat ++
                   [byte x.source.val, kindCode x.kind ||| (if x.redelivered then 0x80 else 0x00), byte x.count] ++
                   leBytes 2 x.detail.toNat ++ leBytes 6 x.first.toNat ++ leBytes 6 x.last.toNat }] })) ∧
  ∀ (p : Port) (r : RouteNo) (b : Batch) (s : State), s.running → s.choice p = some (.reoffer r) →
    (s.route r).batch = some b →
    let batch := (s.route r).queue.take b.n
    exec (.reoffer p) s = .next ((s.updRoute r fun t =>
      { t with batch := some { b with phase := .awaitingAck, frame := (s.port p).sendSeq } }).updPort p fun P =>
      { P with
        sendSeq := P.sendSeq + 1
        window := P.window ++
          [{ seq := P.sendSeq, role := .notify r b.tag, sent := .waiting
             message := [0x40, 0, byte r.val, b.tag, if batch.any Rec.redelivered then 0x03 else 0x01] ++
               leBytes 2 b.snapshot ++ [byte b.n] ++ batch.flatMap Rec.entry }] })

/-- PLACE_REPLY (R148, R179, R181): the oldest reply leaves the backlog and joins the send window in a DATA frame of its own.
ROUTE_LOST, ROUTE_GAINED, ACTION_PENDING and ACTION_ENDED (R94, R96, R120, R121, R180, section 10.4): the flag is cleared, the
notice joins the send window with the values of this moment, and ACTION-PENDING sets the told mark. The model's choices: each
command acts when it is the scheduler's choice, log 2. -/
def Obligations.RepliesAndNoticesArePlaced : Prop :=
  (∀ (p : Port) (q : Reply) (rest : List Reply) (s : State), s.running → s.choice p = some (.reply q rest) →
    exec (.placeReply p) s = .next (s.updPort p fun P =>
      { P with
        backlog := rest
        sendSeq := P.sendSeq + 1
        window := P.window ++ [{ seq := P.sendSeq, message := q.message, role := q.role, sent := .waiting }] })) ∧
  ∀ (p : Port) (s : State), s.running →
    let place := fun (m : List Byte) (P : PortState) =>
      { P with
        sendSeq := P.sendSeq + 1
        window := P.window ++ [{ seq := P.sendSeq, message := m, role := .plain, sent := .waiting }] }
    (∀ r : RouteNo, s.choice p = some (.routeNotice r .lost) →
      exec (.routeLost p) s = .next (s.updPort p fun P =>
        place [0x42, 0, byte r.val, 1, ownerCode (s.route r).owner]
          { P with routeNotices := P.routeNotices.set r.val .none })) ∧
    (∀ r : RouteNo, s.choice p = some (.routeNotice r .gained) →
      exec (.routeGained p) s = .next (s.updPort p fun P =>
        place ([0x41, 0, byte r.val, 1, portCode (otherPort p), s.routeCondition r, byte (s.route r).queue.length] ++
            leBytes 2 (s.route r).lost)
          { P with routeNotices := P.routeNotices.set r.val .none })) ∧
    (∀ (n : ActionNo) (left : Nat), s.choice p = some (.actionNotice n .pending) → (s.action n).state = .grace left →
      exec (.actionPending p) s = .next (s.updPort p fun P =>
        place [0x43, 0, byte n.val, (s.action n).graceNo, triggerCode (s.action n).cfg.trigger,
            byte ((left + 99999) / 100000)]
          { P with
            actionNotices := P.actionNotices.set n.val .none
            told := P.told.set n.val true })) ∧
    (∀ (n : ActionNo) (g : GraceEnd), s.choice p = some (.actionNotice n .ended) → (s.action n).graceEnd = some g →
      exec (.actionEnded p) s = .next (s.updPort p fun P =>
        place [0x44, 0, byte n.val, (s.action n).graceNo, if g.outcome = .fired then 1 else 2, ownerCode g.endedBy]
          { P with actionNotices := P.actionNotices.set n.val .none }))

/-! ## Actions and output pins -/

/-- The end of a grace, as the two ports hear of it (R121): a told port is flagged ACTION-ENDED, an ACTION-PENDING flag not
yet sent is cleared, and no other flag or mark changes. GRACE_EXPIRY (R119, R121, R123): the grace ends, ended by no port, and
the action fires with cause GRACE_EXPIRY; a PULSE action starts its pulse timer, and ACTION_FIRED is reported. PULSE_EXPIRY
(R124): the action returns to IDLE, and nothing else changes. The model's choices: the commands may come at any moment while
their timers run, log 2; the hand-off, log 8. -/
def Obligations.GracesAndPulsesEnd : Prop :=
  (∀ (n : ActionNo) (outcome : GraceOutcome) (endedBy : Option Port) (s : State),
    endGrace n outcome endedBy s =
      ((s.updAction n fun a => { a with graceEnd := some { outcome := outcome, endedBy := endedBy } }).updPort .A
        (PortState.hearGraceEnd n)).updPort .B (PortState.hearGraceEnd n) ∧
    ∀ P : PortState,
      (P.told[n.val] = true →
        P.hearGraceEnd n =
          { P with told := P.told.set n.val false, actionNotices := P.actionNotices.set n.val .ended }) ∧
      (P.told[n.val] = false → P.actionNotices[n.val] = .pending →
        P.hearGraceEnd n = { P with actionNotices := P.actionNotices.set n.val .none }) ∧
      (P.told[n.val] = false → P.actionNotices[n.val] ≠ .pending → P.hearGraceEnd n = P)) ∧
  ∀ (n : ActionNo) (left : Nat) (s : State), s.running →
    ((s.action n).state = .grace left →
      exec (.graceExpiry n) s = .next (handOnHeld (((endGrace n .fired none s).updAction n fun a =>
        { a with
          state := .fired .graceExpiry
            (match a.cfg.shape, a.cfg.width with
              | .level, _ => none
              | .pulse, .ms1 => some 1000
              | .pulse, .ms10 => some 10000
              | .pulse, .ms100 => some 100000
              | .pulse, .ms1000 => some 1000000) }).raise 53 (BitVec.ofNat 16 (n.val + 256 * 2))))) ∧
    (∀ cause, (s.action n).state = .fired cause (some left) →
      exec (.pulseExpiry n) s = .next (s.updAction n fun a => { a with state := .idle }))

/-- The level on OUTn (R115): the output is active in FIRED alone, and the pin carries it by polarity and drive; while RESET# is
held every pin is at high impedance. -/
def Obligations.OutputPinFollowsTheAction : Prop :=
  ∀ (n : ActionNo) (s : State),
    (s.hardReset ≠ none → s.outPin n = .highImpedance) ∧
    (s.running →
      let c := (s.action n).cfg
      ((∃ cause pulse, (s.action n).state = .fired cause pulse) →
        s.outPin n =
          if c.activeHigh then (if c.pushPull then .drivenHigh else .highImpedance) else .drivenLow) ∧
      ((s.action n).state = .idle ∨ (∃ left, (s.action n).state = .grace left) →
        s.outPin n =
          if c.activeHigh then .drivenLow else (if c.pushPull then .drivenHigh else .highImpedance)))

/-- WAKE# of a port is asserted exactly while the port is DORMANT and either a READY route of its own with wake on is not masked, or
an ACTION-PENDING flag is held for it (R172); the pin is an open drain. -/
def Obligations.WakeFollowsItsConditions : Prop :=
  ∀ (p : Port) (s : State), s.running →
    (s.wakePin p = .drivenLow ↔
      (s.port p).session = .dormant ∧
        ((∃ r : RouteNo, (s.route r).owner = some p ∧ (s.route r).cfg.wake = true ∧ (s.route r).state = .ready ∧
            (s.route r).cfg.masked = false) ∨
          ∃ n : ActionNo, (s.port p).actionNotices[n.val] = .pending)) ∧
    s.wakePin p ≠ .drivenHigh

/-! ## Receiver -/

/-- The phases of the receiver (R136, R137, R139, R140): SYNC_BYTE in HUNT starts a header; SKIP_COMPLETE ends SKIP; a gap or
a framing error abandons a header with HEADER_BAD, a payload with PAYLOAD_BAD and the demand for a DATA frame, and SKIP with
nothing more, and is passed over in HUNT. A CLOSED port records nothing. While a reported break stands, SYNC_BYTE and
SKIP_COMPLETE find nothing (R155, `LinkBreakAndItsEnd`). The model's choices: an event that the phase does not meet, such as
SYNC_BYTE outside HUNT or SKIP_COMPLETE outside SKIP, leaves the port as it is, logs 2 and 3. -/
def Obligations.ReceiverPhasesEnd : Prop :=
  ∀ (p : Port) (s : State), s.running →
    ((s.port p).receiver = .hunt →
      ((s.port p).breakReported = false →
        exec (.syncByte p) s = .next (s.updPort p fun P => { P with receiver := .header [0xB4] })) ∧
        exec (.interByteGap p) s = .next s ∧ exec (.framingError p) s = .next s ∧ exec (.skipComplete p) s = .next s) ∧
    (∀ left, (s.port p).receiver = .skip left →
      let t := s.updPort p fun P => { P with receiver := .hunt }
      ((s.port p).breakReported = false → exec (.skipComplete p) s = .next t) ∧ exec (.interByteGap p) s = .next t ∧
        exec (.framingError p) s = .next t ∧ exec (.syncByte p) s = .next s) ∧
    (∀ gathered, (s.port p).receiver = .header gathered →
      let t := s.updPort p fun P =>
        { P with
          receiver := .hunt
          report := if P.session = .closed then P.report else { P.report with headerBad := true } }
      exec (.interByteGap p) s = .next t ∧ exec (.framingError p) s = .next t ∧ exec (.syncByte p) s = .next s ∧
        exec (.skipComplete p) s = .next s) ∧
    (∀ sync type rest gathered, (s.port p).receiver = .payload (sync :: type :: rest) gathered →
      let t := s.updPort p fun P =>
        { P with
          receiver := .hunt
          report := if P.session = .closed then P.report else { P.report with payloadBad := true }
          ackDemand := if P.session ≠ .closed ∧ type = 0x01 then true else P.ackDemand }
      exec (.interByteGap p) s = .next t ∧ exec (.framingError p) s = .next t) ∧
    (∀ header gathered, (s.port p).receiver = .payload header gathered →
      exec (.syncByte p) s = .next s ∧ exec (.skipComplete p) s = .next s)

/-- FRAME_HEADER_RECEIVED (R136, R137, R140) with no break standing (R155, `LinkBreakAndItsEnd`): the seven bytes are checked in
the order HCHK, LEN, TYPE. The receiver has gathered some of them, or is in HUNT. The model's choices, log 3: in HUNT the command brings all seven bytes; and in the last clause a header
with a known TYPE and LEN 0 only returns the receiver to HUNT, with nothing kept and nothing judged. R137 judges such a frame at
once; in the model its own row (DATA_FRAME_RECEIVED, ACK_FRAME_RECEIVED, ANNOUNCE_FRAME_RECEIVED) judges it. -/
def Obligations.HeaderIsJudged : Prop :=
  ∀ (p : Port) (gathered bytes : List Byte) (type seq info l0 l1 hchk : Byte) (s : State), s.running →
    (s.port p).breakReported = false →
    ((s.port p).receiver = .header gathered ∨ (s.port p).receiver = .hunt ∧ gathered = []) →
    gathered ++ bytes = [0xB4, type, seq, info, l0, l1, hchk] →
    let len := l0.toNat + 256 * l1.toNat
    let known := type = 0x01 ∨ type = 0x02 ∨ type = 0x03
    let ends := fun (receiver : Receiver) (set : ReportFlags → ReportFlags) =>
      exec (.frameHeaderReceived p bytes) s = .next (s.updPort p fun P =>
        { P with receiver := receiver, report := if P.session = .closed then P.report else set P.report })
    (crc8 [0xB4, type, seq, info, l0, l1] ≠ hchk →
      ((0xB4 : Byte) ∉ [type, seq, info, l0, l1, hchk] → ends .hunt fun f => { f with headerBad := true }) ∧
      (∀ before after, [type, seq, info, l0, l1, hchk] = before ++ 0xB4 :: after → (0xB4 : Byte) ∉ before →
        ends (.header (0xB4 :: after)) fun f => { f with headerBad := true })) ∧
    (crc8 [0xB4, type, seq, info, l0, l1] = hchk →
      (256 < len → ends .hunt fun f => { f with tooLong := true }) ∧
      (len ≤ 256 → ¬known →
        ends (if len = 0 then .hunt else .skip (len + 2)) fun f => { f with unknownType := true }) ∧
      (len ≤ 256 → known →
        ends (if len = 0 then .hunt else .payload [0xB4, type, seq, info, l0, l1, hchk] []) fun f => f))

/-- PAYLOAD_BAD (R134, R138, R140) with no break standing (R155, `LinkBreakAndItsEnd`): a complete payload whose check fails is
discarded; the demand is set for a DATA frame. The model's choices: in HUNT the command brings the whole payload and its check,
log 3. -/
def Obligations.BadPayloadIsDiscarded : Prop :=
  ∀ (p : Port) (t : FrameType) (gathered bytes payload : List Byte) (seq info l0 l1 hchk c0 c1 : Byte) (s : State),
    s.running → (s.port p).breakReported = false →
    ((s.port p).receiver = .payload [0xB4, frameTypeCode t, seq, info, l0, l1, hchk] gathered ∧
        payload.length = l0.toNat + 256 * l1.toNat ∨
      (s.port p).receiver = .hunt ∧ gathered = [] ∧ 1 ≤ payload.length ∧ payload.length ≤ 256) →
    gathered ++ bytes = payload ++ [c0, c1] → (crc16 payload).toNat ≠ c0.toNat + 256 * c1.toNat →
    exec (.payloadBad p t bytes) s = .next (s.updPort p fun P =>
      { P with
        receiver := .hunt
        report := if P.session = .closed then P.report else { P.report with payloadBad := true }
        ackDemand := if P.session ≠ .closed ∧ t = .data then true else P.ackDemand })

/-- The two frame checks over every byte list (R134): bit by bit, the most significant bit of each byte first, the register is
shifted left, and takes the generator polynomial (0x07, 0x1021) when the bit shifted out differs from the bit taken in; it starts at
0x00 and at 0xFFFF. Over "123456789" they give 0xF4 and 0x29B1. The bytes of a frame (R133, R134, section 10.1): SYNC, TYPE, SEQ,
INFO, LEN low byte first, HCHK over those six, and with LEN above 0 the payload and its check, low byte first. -/
def Obligations.FrameChecksGiveTheirCheckValues : Prop :=
  let bits := fun bytes : List Byte =>
    bytes.flatMap fun b => [7, 6, 5, 4, 3, 2, 1, 0].map fun k : Nat => b.getLsbD k
  let takes8 := fun (r : Byte) (bit : Bool) => if r.msb = bit then r <<< 1 else (r <<< 1) ^^^ 0x07#8
  let takes16 := fun (r : Half) (bit : Bool) => if r.msb = bit then r <<< 1 else (r <<< 1) ^^^ 0x1021#16
  (∀ bytes : List Byte, crc8 bytes = (bits bytes).foldl takes8 0x00#8) ∧
  (∀ bytes : List Byte, crc16 bytes = (bits bytes).foldl takes16 0xFFFF#16) ∧
  (∀ f : Frame,
    let type : Byte := match f.ftype with
      | .data => 0x01
      | .ack => 0x02
      | .announce => 0x03
    let len := f.payload.length
    let header := [0xB4, type, f.seq, f.info, BitVec.ofNat 8 len, BitVec.ofNat 8 (len / 256)]
    let check := (crc16 f.payload).toNat
    f.bytes =
      header ++ [crc8 header] ++
        if len = 0 then [] else f.payload ++ [BitVec.ofNat 8 check, BitVec.ofNat 8 (check / 256)]) ∧
  crc8 [0x31, 0x32, 0x33, 0x34, 0x35, 0x36, 0x37, 0x38, 0x39] = 0xF4 ∧
    crc16 [0x31, 0x32, 0x33, 0x34, 0x35, 0x36, 0x37, 0x38, 0x39] = 0x29B1

/-! ## Frames from the agent -/

/-- DATA_FRAME_RECEIVED within a session, which a port has only with no break standing (R155, `LinkBreakAndItsEnd`) (R138, R141 to
R146, R167, R170, R171): the frame is heard, judged by its SEQ against
E, and then its INFO is applied as an acknowledgement. The order of the last two is log 18. An OPEN within a session (R143,
R144, R145): a duplicate sets the demand and its INFO is applied; any other SEQ is accepted whatever E and the backlog are,
waits for the command that takes it, and its INFO is not applied. A frame of any type completes (R137, R138) when its payload is at
most 256 bytes and the receiver is in HUNT, or has gathered a header with this TYPE, SEQ, INFO and LEN above 0 and a beginning of
this payload. The model's choices: in HUNT the command brings the whole
frame, log 3; an accepted request waits for the command that takes it, log 4; the INFO of an OPEN that is refused when it is
taken is not applied either, log 29. -/
def Obligations.DataFrameIsJudgedBySeq : Prop :=
  (∀ (t : FrameType) (seq info : Byte) (payload : List Byte) (P : PortState),
    P.completes t seq info payload = true ↔
      payload.length ≤ 256 ∧
        (P.receiver = .hunt ∨
          ∃ header gathered, P.receiver = .payload header gathered ∧ payload ≠ [] ∧ (∃ rest, gathered ++ rest = payload) ∧
            header.take 6 =
              [0xB4, frameTypeCode t, seq, info, BitVec.ofNat 8 payload.length, BitVec.ofNat 8 (payload.length / 256)])) ∧
  (∀ (p : Port) (seq info : Byte) (payload : List Byte) (s : State), s.running → (s.port p).breakReported = false →
    (s.port p).completes .data seq info payload = true → (s.port p).session ≠ .closed → payload.head? ≠ some 0x01 →
    let e := (s.port p).expected
    let becomes := fun (f : PortState → PortState) =>
      exec (.dataFrameReceived p seq info payload) s = .next (applyAck p info (s.updPort p fun P => f P.heard))
    let accepted := fun (requests : List Request) (P : PortState) =>
      { P with
        expected := e + 1, session := .up, accepted := P.accepted ++ requests
        ackOwed := if P.ackOwed = .clear then .waiting 1000 else P.ackOwed }
    (seq = e → payload = [] → becomes (accepted [])) ∧
    (seq = e → payload ≠ [] → (s.port p).placesUsed < 8 →
      becomes (accepted [{ seq := seq, payload := payload }])) ∧
    (seq = e → payload ≠ [] → 8 ≤ (s.port p).placesUsed →
      becomes fun P => { P with report := { P.report with rxFull := true }, ackDemand := true }) ∧
    (seq = e - 1 ∨ seq = e - 2 ∨ seq = e - 3 ∨ seq = e - 4 → becomes fun P => { P with ackDemand := true }) ∧
    (seq = e + 1 ∨ seq = e + 2 ∨ seq = e + 3 →
      becomes fun P => { P with report := { P.report with outOfOrder := true }, ackDemand := true }) ∧
    (4 ≤ (seq - e).toNat → (seq - e).toNat ≤ 251 →
      becomes fun P => { P with report := { P.report with windowExceeded := true }, ackDemand := true })) ∧
  ∀ (p : Port) (seq info : Byte) (rest : List Byte) (s : State), s.running → (s.port p).breakReported = false →
    (s.port p).completes .data seq info (0x01 :: rest) = true → (s.port p).session ≠ .closed →
    let e := (s.port p).expected
    let duplicate := seq = e - 1 ∨ seq = e - 2 ∨ seq = e - 3 ∨ seq = e - 4
    (duplicate →
      exec (.dataFrameReceived p seq info (0x01 :: rest)) s =
        .next (applyAck p info (s.updPort p fun P => { P.heard with ackDemand := true }))) ∧
    (¬duplicate →
      exec (.dataFrameReceived p seq info (0x01 :: rest)) s =
        .next (s.updPort p fun P =>
          { P.heard with
            session := .up, accepted := P.accepted ++ [{ seq := seq, payload := 0x01 :: rest }] }))

/-- A CLOSED port with no break standing (R161; R155, `LinkBreakAndItsEnd`): a DATA frame that begins with the OPEN code is taken as an OPEN whatever its SEQ, every other valid
frame is without effect but for the receiver's return to HUNT, and frames refused or abandoned record no flag and set no
demand. The model's choices: in HUNT the command brings the whole frame, log 3; an accepted OPEN waits for the command that
takes it, log 4; a further OPEN is accepted meanwhile, log 30. -/
def Obligations.ClosedPortHearsOpensAlone : Prop :=
  ∀ (p : Port) (seq info : Byte) (payload : List Byte) (s : State), s.running → (s.port p).session = .closed →
    (s.port p).breakReported = false →
    ((s.port p).completes .data seq info payload = true →
      exec (.dataFrameReceived p seq info payload) s = .next (s.updPort p fun P =>
        { P with
          receiver := .hunt
          accepted := P.accepted ++ if payload.head? = some 0x01 then [{ seq := seq, payload := payload }] else [] })) ∧
    ((s.port p).completes .ack seq info payload = true →
      exec (.ackFrameReceived p seq info payload) s = .next (s.updPort p fun P => { P with receiver := .hunt })) ∧
    ((s.port p).completes .announce seq info payload = true →
      exec (.announceFrameReceived p seq info payload) s = .next (s.updPort p fun P => { P with receiver := .hunt })) ∧
    ∀ c, (c = .interByteGap p ∨ c = .framingError p ∨ (∃ bytes, c = .frameHeaderReceived p bytes) ∨
        ∃ t bytes, c = .payloadBad p t bytes) →
      ∃ receiver, exec c s = .next (s.updPort p fun P => { P with receiver := receiver })

/-- An acknowledgement number applied to the send window (R76, R149, R150, R152, R170): one that names no frame changes
nothing; one that names a frame takes it and those before it from the window, clears the attempt count and handles the
retransmit timer, and the NOTIFY of the latest offer starts its route's service timer. A port entering dormancy falls asleep
when nothing is left. The model's choices: accepted requests not yet taken keep a port awake, log 16; a round after an
acknowledgement, log 11; the end of a refused OPEN releases a pending soft reset, log 28; an expiry of the timer taken next at the
same moment does not happen (R153), log 31. -/
def Obligations.AcknowledgementIsApplied : Prop :=
  ∀ (p : Port) (a : Byte) (s : State),
    ((∀ w ∈ (s.port p).window, w.seq ≠ a) → applyAck p a s = s) ∧
    ∀ (front : List Slot) (w : Slot) (rest : List Slot), (s.port p).window = front ++ w :: rest → w.seq = a →
      (∀ x ∈ front, x.seq ≠ a) →
      let acknowledged := fun (P : PortState) =>
        { P with
          window := rest, attempts := 0
          retransmit :=
            match rest with
            | [] => none
            | x :: _ => if x.sent = .sent then some (P.params.retransmit * 10000) else none
          expiryNow := .precluded
          round := P.round.filter fun q => rest.any fun x => x.seq == q
          roundsDue := if rest = [] then 0 else P.roundsDue }
      let asleep := fun (P : PortState) =>
        if P.session = .enteringDormant ∧ P.window = [] ∧ P.backlog = [] ∧ P.accepted = [] ∧ P.ackOwed = .clear ∧
          P.ackDemand = false then
          { P with session := .dormant, silence := none, retransmit := none }
        else P
      (front = [] → w.role = .plain → applyAck p a s = s.updPort p fun P => asleep (acknowledged P)) ∧
      (∀ r tag, front = [] → w.role = .notify r tag →
        applyAck p a s =
          (s.updRoute r fun t =>
            match t.batch with
            | some b =>
              if t.owner = some p ∧ b.tag = tag ∧ b.frame = a ∧ b.phase = .awaitingAck then
                if t.cfg.serviceTimeout = 0 then { t with batch := some { b with phase := .untimed }, timer := none }
                else { t with batch := some { b with phase := .timing }, timer := some (t.cfg.serviceTimeout * 100000) }
              else t
            | none => t).updPort p fun P => asleep (acknowledged P)) ∧
      (front = [] → w.role = .close → (s.port p).closing = true → (s.port p).session ≠ .closed →
        applyAck p a s = (orderlyEnd p (s.updPort p acknowledged)).updPort p asleep) ∧
      (front = [] → w.role = .refusedOpen → (s.port p).refusing = true →
        applyAck p a s = (orderlyEnd p (s.updPort p acknowledged)).updPort p asleep) ∧
      (front = [] → w.role = .deviceReset → (s.port p).resetPending = true →
        applyAck p a s = (softReset (s.updPort p acknowledged)).updPort p asleep) ∧
      applyAck p a s =
        ((front ++ [w]).foldl (reportAcked p) (s.updPort p acknowledged)).updPort p asleep

/-- ACK_FRAME_RECEIVED within a session, with no break standing (R155, `LinkBreakAndItsEnd`) (R138, R145, R149, R152, R154, R167, R171): the frame is heard and its SEQ is applied;
report flags then call for a round if frames were in the window and frames remain, behind a round still in progress, and reach
the retry limit at the ninth call. An expiry that could have come with the frame can then come after it and makes a round too
(R153). ANNOUNCE_FRAME_RECEIVED within a session (R138, R167, R171): the frame is heard and has no further effect. The model's
choices: in HUNT the command brings the whole frame, log 3; rounds behind a round, log 11; the expiry beside a frame that removed the
oldest, log 31. -/
def Obligations.AckAndAnnounceFramesAreTaken : Prop :=
  (∀ (p : Port) (seq info : Byte) (payload : List Byte) (s : State), s.running → (s.port p).breakReported = false →
    (s.port p).completes .ack seq info payload = true → (s.port p).session ≠ .closed →
    let t := applyAck p seq (s.updPort p PortState.heard)
    let calls := info &&& 0x7F ≠ 0 ∧ (s.port p).window ≠ [] ∧ (t.port p).window ≠ []
    let couldExpire := (s.port p).expiryNow = .byTimer ∧ (s.port p).retransmit ≠ none ∨ (s.port p).expiryNow = .joined
    let u := t.updPort p fun P => { P with expiryNow := if couldExpire then .joined else P.expiryNow }
    (¬calls → exec (.ackFrameReceived p seq info payload) s = .next t) ∧
    (calls → (t.port p).attempts < 8 →
      exec (.ackFrameReceived p seq info payload) s = .next (u.updPort p fun P =>
        { P with
          attempts := P.attempts + 1
          round := if P.round = [] then P.window.map Slot.seq else P.round
          roundsDue := if P.round = [] then P.roundsDue else P.roundsDue + 1 })) ∧
    (calls → 8 ≤ (t.port p).attempts →
      exec (.ackFrameReceived p seq info payload) s = .next
        (if (t.port p).refusing = true ∨ (t.port p).closing = true then orderlyEnd p u
        else sessionLoss p .retryLimit .due u))) ∧
  ∀ (p : Port) (seq info : Byte) (payload : List Byte) (s : State), s.running → (s.port p).breakReported = false →
    (s.port p).completes .announce seq info payload = true → (s.port p).session ≠ .closed →
    exec (.announceFrameReceived p seq info payload) s = .next (s.updPort p PortState.heard)

/-! ## Transmitter and link timers -/

/-- ACK_DELAY_EXPIRY and TRANSMIT_ACK_FRAME (R133, R140, R146, R147): when 1 ms has passed an acknowledgement owed is due; an
ACK frame begins when the demand is set or an acknowledgement is due, carries E − 1 and the flags, and clears flags, demand
and acknowledgement owed. A port entering dormancy may then fall asleep (R170). The transmitter is free when no frame is
on it (R147). The model's choices: the moment of the expiry, log 2; accepted requests not yet taken keep a port awake, log 16. -/
def Obligations.AckFrameBegins : Prop :=
  ∀ (p : Port) (s : State), s.running →
    (∀ left, (s.port p).ackOwed = .waiting left →
      exec (.ackDelayExpiry p) s = .next (s.updPort p fun P => { P with ackOwed := .due })) ∧
    ((s.port p).session = .up ∨ (s.port p).session = .enteringDormant → (s.port p).tx = none →
      (s.port p).ackDemand = true ∨ (s.port p).ackOwed = .due →
      exec (.transmitAckFrame p) s = .next (s.updPort p fun P =>
        let f := P.report
        let sent :=
          { P with
            report := .clear, ackDemand := false, ackOwed := .clear
            tx := some
              { live := true
                frame :=
                  { ftype := .ack, seq := P.expected - 1, payload := []
                    info := BitVec.ofNat 8 (f.headerBad.toNat + 2 * f.payloadBad.toNat + 4 * f.outOfOrder.toNat +
                      8 * f.tooLong.toNat + 16 * f.unknownType.toNat + 32 * f.windowExceeded.toNat + 64 * f.rxFull.toNat) } } }
        if P.session = .enteringDormant ∧ P.window = [] ∧ P.backlog = [] ∧ P.accepted = [] then
          { sent with session := .dormant, silence := none, retransmit := none }
        else sent))

/-- TRANSMIT_DATA_FRAME (R133, R146, R147, R151): with no ACK frame ready, the next frame of a round in progress begins, and
without a round the oldest frame that has not begun; its INFO is E − 1 and it meets the acknowledgement owed. The
transmitter is free when no frame is on it. The model's choices: the order of rounds, log 11. -/
def Obligations.DataFrameBegins : Prop :=
  ∀ (p : Port) (w : Slot) (s : State), s.running → (s.port p).session = .up ∨ (s.port p).session = .enteringDormant →
    (s.port p).tx = none → (s.port p).ackDemand = false → (s.port p).ackOwed ≠ .due →
    let begins := fun (rest : List Byte) (due : Nat) =>
      exec (.transmitDataFrame p) s = .next (s.updPort p fun P =>
        { P with
          tx := some { live := true, frame := { ftype := .data, seq := w.seq, info := P.expected - 1, payload := w.message } }
          ackOwed := .clear
          window := P.window.map fun x => if x.seq = w.seq ∧ x.sent = .waiting then { x with sent := .sending } else x
          round := rest, roundsDue := due })
    (∀ front back, (s.port p).window = front ++ w :: back → (∀ x ∈ front, x.seq ≠ w.seq) →
      ∀ rest, (s.port p).round = w.seq :: rest → begins rest (s.port p).roundsDue) ∧
    (∀ back due, (s.port p).window = w :: back → (s.port p).round = [] → (s.port p).roundsDue = due + 1 →
      begins (back.map Slot.seq) due) ∧
    (∀ front back, (s.port p).window = front ++ w :: back → (∀ x ∈ front, x.sent ≠ .waiting) → w.sent = .waiting →
      (s.port p).round = [] → (s.port p).roundsDue = 0 → begins [] 0)

/-- FRAME_TRANSMIT_END (R147, R150, R158, R184): while a frame is on the transmitter no other begins, whatever its type; at its
end the transmitter is free. A DATA frame of the present session is now sent, the retransmit timer starts if it is the oldest,
and the first end of the reply to DEVICE-RESET starts the 100 ms count. The model's choices: the command ends a frame of any
type, log 10; a timer that starts so may expire at any moment, logs 2 and 31. -/
def Obligations.FrameEndStartsItsTimers : Prop :=
  ∀ (p : Port) (x : Transmission) (s : State), s.running → (s.port p).tx = some x →
    (exec (.transmitAckFrame p) s = .next s ∧ exec (.transmitDataFrame p) s = .next s ∧ exec (.announce p) s = .next s) ∧
    (x.live = false ∨ x.frame.ftype ≠ .data →
      exec (.frameTransmitEnd p) s = .next (s.updPort p fun P => { P with tx := none })) ∧
    (x.live = true → x.frame.ftype = .data →
      ∀ front w back, (s.port p).window = front ++ w :: back → w.seq = x.frame.seq →
        (∀ y ∈ front ++ back, y.seq ≠ w.seq) →
        exec (.frameTransmitEnd p) s = .next (s.updPort p fun P =>
          { P with
            tx := none
            window := front ++ { w with sent := .sent } :: back
            retransmit := if front = [] then some (P.params.retransmit * 10000) else P.retransmit
            expiryNow := if front = [] then .byTimer else P.expiryNow
            resetTimer :=
              if w.role = .deviceReset ∧ w.sent = .sending ∧ P.resetPending = true ∧ P.resetTimer = none then some 100000
              else P.resetTimer }))

/-- RETRANSMIT_TIMEOUT (R151, R153, R154, R164, R166): below the limit a round is made; at the limit a refused OPEN and an orderly
close end, and any other session is lost with cause RETRY_LIMIT. It does not happen when an acknowledgement taken first at the same
moment removed the oldest frame, and it does beside an ACK frame with report flags that left frames. SILENCE_EXPIRY (R167, R168): the
session is lost with cause SILENCE, and ANNOUNCE is due at once; it does not happen when a valid frame is taken first at the same
moment. The model's choices: the moment of the expiries, log 2; rounds behind a round, log 11; a soft reset pending at a loss, log
14, and at the return of a refused OPEN, log 28; what one moment is, and the expiry beside a flagged ACK frame, log 31. -/
def Obligations.LinkTimersMakeRoundsAndEndSessions : Prop :=
  (∀ (p : Port) (s : State), s.running → (s.port p).expiryNow = .precluded → exec (.retransmitTimeout p) s = .next s) ∧
  (∀ (p : Port) (s : State), s.running →
    (s.port p).expiryNow = .byTimer ∧ (∃ left, (s.port p).retransmit = some left) ∨ (s.port p).expiryNow = .joined →
    (s.port p).window ≠ [] →
    let t := s.updPort p fun P => { P with retransmit := none, expiryNow := .byTimer }
    ((s.port p).attempts < 8 →
      exec (.retransmitTimeout p) s = .next (t.updPort p fun P =>
        { P with
          attempts := P.attempts + 1
          round := if P.round = [] then P.window.map Slot.seq else P.round
          roundsDue := if P.round = [] then P.roundsDue else P.roundsDue + 1 })) ∧
    (8 ≤ (s.port p).attempts →
      ((s.port p).refusing = true ∨ (s.port p).closing = true →
        exec (.retransmitTimeout p) s = .next (orderlyEnd p t)) ∧
      ((s.port p).refusing = false → (s.port p).closing = false →
        exec (.retransmitTimeout p) s = .next (sessionLoss p .retryLimit .due t)))) ∧
  ∀ (p : Port) (left : Nat) (s : State), s.running → (s.port p).silence = some left →
    ((s.port p).heardNow = false → exec (.silenceExpiry p) s = .next (sessionLoss p .silence .due s)) ∧
    ((s.port p).heardNow = true → exec (.silenceExpiry p) s = .next s)

/-- LINK_BREAK and BREAK_LINE_MARK (R139, R155, R158, R160, R164, R168, R173): the receiver enters HUNT, the frame on the
transmitter is cut off, the cause is BREAK and ANNOUNCE is suspended; a session is lost, a CLOSED port stays CLOSED, a refused
OPEN ends in order; one report for a space. While the line stays at space the receiver finds no byte, header or frame, good or bad,
passes framing errors and gaps over in HUNT, and no OPEN is taken that was not accepted before; all leave the part as it is. When
the line returns to mark, ANNOUNCE is due. The model's choices: when an OPEN is taken, log 4; a refused OPEN is no session to lose,
log 12; the break detector's count, log 23; an OPEN that a CLOSED port has accepted and not yet
taken is discarded, log 27; the end of a refused OPEN releases a pending soft reset, log 28. -/
def Obligations.LinkBreakAndItsEnd : Prop :=
  ∀ (p : Port) (s : State), s.running →
    let t := s.updPort p fun P =>
      { P with receiver := .hunt, tx := none, breakReported := true, spaceTime := 10000, cause := .linkBreak }
    ((s.port p).breakReported = true →
      exec (.linkBreak p) s = .next s ∧
        exec (.breakLineMark p) s = .next (s.updPort p fun P =>
          { P with
            breakReported := false, spaceTime := 0
            announce := if P.announce = .suspended then .due else P.announce }) ∧
        exec (.syncByte p) s = .next s ∧ exec (.skipComplete p) s = .next s ∧
        (∀ bytes, exec (.frameHeaderReceived p bytes) s = .next s ∧ ∀ t, exec (.payloadBad p t bytes) s = .next s) ∧
        (∀ seq info payload,
          exec (.dataFrameReceived p seq info payload) s = .next s ∧ exec (.ackFrameReceived p seq info payload) s = .next s ∧
            exec (.announceFrameReceived p seq info payload) s = .next s) ∧
        ((s.port p).receiver = .hunt → exec (.framingError p) s = .next s ∧ exec (.interByteGap p) s = .next s) ∧
        ((s.port p).accepted = [] → ∀ seq rest, exec (.openSession p seq rest) s = .next s)) ∧
    ((s.port p).breakReported = false →
      ((s.port p).session = .closed →
        exec (.linkBreak p) s = .next (t.updPort p (PortState.closed .suspended))) ∧
      ((s.port p).session ≠ .closed → (s.port p).refusing = true →
        exec (.linkBreak p) s = .next (endOrderly .suspended p t)) ∧
      ((s.port p).session ≠ .closed → (s.port p).refusing = false →
        exec (.linkBreak p) s = .next (sessionLoss p .linkBreak .suspended t)))

/-- ANNOUNCE (R158, R159): a CLOSED port with a free transmitter begins an ANNOUNCE frame with SEQ 0, INFO 0 and the eight
bytes of section 10.1, and the next is due 1 s after its start. The transmitter is free when no frame is on it
(R147). The model's choices: the command may come before the time left has passed, log 2. -/
def Obligations.AnnounceBegins : Prop :=
  ∀ (p : Port) (s : State), s.running → (s.port p).session = .closed → (s.port p).tx = none →
    ((s.port p).announce = .due ∨ ∃ left, (s.port p).announce = .waiting left) →
    exec (.announce p) s = .next (s.updPort p fun P =>
      { P with
        announce := .waiting 1000000
        tx := some
          { live := false
            frame :=
              { ftype := .announce, seq := 0, info := 0
                payload := [0x16, 0x48, 0x01, if p = .A then 0x41 else 0x42, resetCauseCode P.cause] ++
                  leBytes 3 s.seconds.toNat } } })

/-! ## The end of a session -/

/-- A port that enters CLOSED (R135, R156, R158, R165, R166, R168, R180): delivery state, backlog, flags and told marks are
cleared; the receiver, the session number, the reset cause and a pending soft reset are left, and a frame being sent goes on
without its session. An orderly end (R105, R165, R166, R184): the port is CLOSED, ANNOUNCE has the schedule given (due, or
suspended at a link break), the batches of its routes return marked with their tags retired, no owner changes and nothing is
reported; a soft reset pending for the port then takes place. The model's choices: a frame being sent stays on the transmitter
without its session, log 10; E is left at a session's end, log 21; so is the mark of a frame heard at this moment, log 31; an
accepted OPEN not yet taken goes with the accepted requests, log 27; the return of a refused OPEN to CLOSED is such an end, with
the soft reset, log 28. -/
def Obligations.OrderlyEndClosesThePort : Prop :=
  (∀ (schedule : Schedule) (P : PortState),
    let Q := P.closed schedule
    Q.session = .closed ∧ Q.window = [] ∧ Q.retransmit = none ∧ Q.attempts = 0 ∧ Q.round = [] ∧ Q.roundsDue = 0 ∧
      Q.report = .clear ∧ Q.ackOwed = .clear ∧ Q.ackDemand = false ∧ Q.backlog = [] ∧ Q.accepted = [] ∧ Q.closing = false ∧
      Q.refusing = false ∧ Q.silence = none ∧ Q.announce = schedule ∧
      Q.params = { maxPayload := 64, window := 1, silenceLimit := 0, retransmit := 5 } ∧
      (∀ r : RouteNo, Q.routeNotices[r.val] = .none) ∧
      (∀ n : ActionNo, Q.actionNotices[n.val] = .none ∧ Q.told[n.val] = false) ∧
      Q.receiver = P.receiver ∧ Q.expected = P.expected ∧ Q.sessionNo = P.sessionNo ∧ Q.cause = P.cause ∧
      Q.expiryNow = .byTimer ∧ Q.heardNow = P.heardNow ∧
      Q.breakReported = P.breakReported ∧ Q.spaceTime = P.spaceTime ∧ Q.resetPending = P.resetPending ∧
      Q.resetTimer = none ∧ Q.tx = P.tx.map fun x => { x with live := false }) ∧
  ∀ (p : Port) (schedule : Schedule) (s : State),
    let t := s.updPort p (PortState.closed schedule)
    let u :=
      { t with
        routes := Vector.ofFn fun r : RouteNo =>
          if (s.route r).owner = some p then
            { s.route r with
              queue := (s.route r).queue.map fun x =>
                if x.state = .offered then { x with state := .pending, redelivered := true } else x
              batch := none, timer := none }
          else s.route r }
    orderlyEnd p s = endOrderly .due p s ∧
      endOrderly schedule p s = if (s.port p).resetPending = true then softReset u else u

/-- A session loss (R16, R105 to R108, R168, R184): the port is CLOSED, its batches return, each of its routes with failover on
passes to the other port if that is UP, which is flagged ROUTE-GAINED, and the others stay. ROUTE_FAILOVER is reported in
ascending route number and LINK_x_DOWN once; its place among them is a free value (R107; log 7). The occurrences are handed on, and
then a pending soft reset takes place (log 14). -/
def Obligations.SessionLossReturnsAndFailsOver : Prop :=
  ∀ (p : Port) (cause : LossCause) (schedule : Schedule) (s : State),
    let u := loseSession p cause schedule s
    let moves := fun r => (s.route r).owner = some p ∧ (s.route r).cfg.failover = true ∧ (s.port (otherPort p)).session = .up
    let returned := fun (t : Route) =>
      { t with
        queue := t.queue.map fun x => if x.state = .offered then { x with state := .pending, redelivered := true } else x
        batch := none, timer := none }
    let code := match cause with
      | .silence => 1
      | .retryLimit => 2
      | .linkBreak => 3
    let report := fun (i : SourceNo) (detail : Nat) =>
      if (s.source i).state = .off then []
      else [Held.occurrence
        { source := i, kind := .internal, detail := BitVec.ofNat 16 detail, time := s.timebase,
          route := (s.source i).cfg.route, coalesce := true }]
    sessionLoss p cause schedule s =
        (if ((handOnHeld u).port p).resetPending = true then softReset (handOnHeld u) else handOnHeld u) ∧
      u.port p = (s.port p).closed schedule ∧
      (∀ r, (moves r → u.route r = { returned (s.route r) with owner := some (otherPort p), stalled := false }) ∧
        (¬moves r → (s.route r).owner = some p → u.route r = returned (s.route r)) ∧
        ((s.route r).owner ≠ some p → u.route r = s.route r)) ∧
      (∀ r : RouteNo,
        (moves r → (u.port (otherPort p)).routeNotices[r.val] = .gained) ∧
        (¬moves r → (u.port (otherPort p)).routeNotices[r.val] = (s.port (otherPort p)).routeNotices[r.val])) ∧
      { u.port (otherPort p) with routeNotices := (s.port (otherPort p)).routeNotices } = s.port (otherPort p) ∧
      (∃ (moved : List RouteNo) (place : Nat), (∀ r, r ∈ moved ↔ moves r) ∧ moved.Pairwise (· < ·) ∧
        u.held = s.held ++
          (moved.take place).flatMap (fun r => report 54 (r.val + 256 * (portCode (otherPort p)).toNat)) ++
          report (if p = .A then 51 else 52) code ++
          (moved.drop place).flatMap fun r => report 54 (r.val + 256 * (portCode (otherPort p)).toNat)) ∧
      u.sources = s.sources ∧ u.lines = s.lines ∧ u.store = s.store ∧ u.history = s.history ∧ u.actions = s.actions

/-- The soft reset (R24, R35, R36, R42, R65, R132, R156, R173, R184, R185), in one event for every block, whatever releases it. A
schedule suspended by a break stays suspended until the line returns to mark (R158; log 15). DEVICE_RESET_TIMEOUT with a soft reset
pending is that (R184). The model's choices: the moment of the expiry, log 2; the candidate level of a restarted line, log 6; E and
the send sequence are left, log 21; the queue of commands is kept, log 25; an accepted OPEN not yet taken is discarded, log 27. -/
def Obligations.SoftResetReachesEveryBlock : Prop :=
  (∀ s : State,
    let t := softReset s
    (∀ i, t.line i = { raw := (s.line i).raw, filter := .unsettled false 0 }) ∧
      (∀ i, (t.source i).cfg = (s.source i).cfg ∧
        (t.source i).state = if (s.source i).cfg.mode = .off then .off else .watch) ∧
      t.held = [] ∧
      t.store = { freeGeneral := 248, freeReserve := 8, lowArmed := true, nextSeq := s.store.nextSeq } ∧
      t.history = { entries := [], counter := s.history.counter } ∧
      (∀ r, t.route r =
        { s.route r with queue := [], stalled := false, lost := 0, batch := none, timer := none }) ∧
      (∀ n, t.action n =
        { s.action n with
          state :=
            match (s.action n).state, (s.action n).cfg.shape with
            | .fired cause _, .level => .fired cause none
            | _, _ => .idle }) ∧
      (∀ q, t.port q =
        { (s.port q).closed (if (s.port q).announce = .suspended then .suspended else .due) with
          receiver := .hunt, cause := .soft, resetPending := false }) ∧
      t.timebase = s.timebase ∧ t.sampleTime = s.sampleTime ∧ t.seconds = s.seconds ∧ t.micro = s.micro ∧ t.rate1 = s.rate1 ∧
      t.rate0 = s.rate0 ∧ t.pending = s.pending ∧ t.arrivals = s.arrivals ∧ t.hardReset = s.hardReset) ∧
  ∀ (p : Port) (left : Nat) (s : State), s.running → (s.port p).resetPending = true → (s.port p).resetTimer = some left →
    exec (.deviceResetTimeout p) s = .next (softReset s)

/-! ## Requests -/

/-- Requests refused before they reach any other block (R174 to R178, section 10.2): an unknown code is answered with code
0xFF and BAD_CODE, a known code with another length than its own with BAD_LENGTH; a missing tag is answered as 0. Nothing
changes but the accepted requests and the backlog. (An OPEN of another length is the refused OPEN of `OpenBeginsASession`.)
The model's choices: when a request is taken, log 4. -/
def Obligations.BadCodesAndBadLengthsAreRefused : Prop :=
  ∀ (p : Port) (s : State),
    (∀ (code : Byte) (rest : List Byte), code ∉ ([0x01, 0x02, 0x03, 0x04, 0x05, 0x06, 0x07, 0x08, 0x10, 0x11, 0x12, 0x20, 0x21,
        0x22, 0x23, 0x24, 0x25, 0x30, 0x31, 0x32, 0x33, 0x34, 0x38] : List Byte) →
      Takes p code rest s → exec (.badCode p code rest) s = .next (s.answered p [0xFF, rest.headD 0, 0x01])) ∧
    ∀ (code : Byte) (length : Nat) (c : List Byte → Instr),
      (code, length, c) ∈ ([(0x02, 2, .close p), (0x03, 2, .ping p), (0x04, 2, .dormant p), (0x05, 2, .status p),
          (0x06, 2, .deviceReset p), (0x07, 2, .getTime p), (0x08, 8, .setTime p), (0x10, 8, .sourceSet p),
          (0x11, 3, .sourceGet p), (0x12, 2, .lineRead p), (0x20, 13, .routeSet p), (0x21, 3, .routeGet p),
          (0x22, 4, .claimRoute p), (0x23, 3, .releaseRoute p), (0x24, 3, .resumeRoute p), (0x25, 5, .serviceDone p),
          (0x30, 10, .actionSet p), (0x31, 3, .actionGet p), (0x32, 3, .cancelAction p), (0x33, 3, .setOutput p),
          (0x34, 3, .clearOutput p), (0x38, 5, .historyRead p)] : List (Byte × Nat × (List Byte → Instr))) →
      ∀ rest, rest.length + 1 ≠ length → Takes p code rest s →
        exec (c rest) s = .next (s.answered p [code + 0x80, rest.headD 0, 0x02])

/-- GET-TIME (R37) and LINE-READ (R22), from either port: after the length check each is answered OK, with the Timebase value and with
the filtered level and settled mark of every line, and changes nothing else. The model's choice: when a request is taken, log 4. -/
def Obligations.TimeAndLinesAreRead : Prop :=
  ∀ (p : Port) (tag : Byte) (s : State),
    (Takes p 0x07 [tag] s →
      exec (.getTime p [tag]) s = .next (s.answered p ([0x87, tag, 0x00] ++ leBytes 6 s.timebase.toNat))) ∧
    (Takes p 0x12 [tag] s →
      ∃ levels marks : List Byte, levels.length = 6 ∧ marks.length = 6 ∧
        exec (.lineRead p [tag]) s = .next (s.answered p ([0x92, tag, 0x00] ++ levels ++ marks)) ∧
        ∀ i : LineNo,
          match (s.line i).filter with
          | .settled level _ =>
            (levels.getD (i.val / 8) 0).getLsbD (i.val % 8) = level ∧ (marks.getD (i.val / 8) 0).getLsbD (i.val % 8) = true
          | .unsettled _ _ =>
            (levels.getD (i.val / 8) 0).getLsbD (i.val % 8) = false ∧
              (marks.getD (i.val / 8) 0).getLsbD (i.val % 8) = false) ∧
    ∀ rest : List Byte, rest.length ≠ 1 →
      (Takes p 0x07 rest s → exec (.getTime p rest) s = .next (s.answered p [0x87, rest.headD 0, 0x02])) ∧
      (Takes p 0x12 rest s → exec (.lineRead p rest) s = .next (s.answered p [0x92, rest.headD 0, 0x02]))

/-- The codes of the enumerated values (sections 10.1 and 10.6, R133, R159) and the state of a route (R54), in which this and the
other statements are written. PING, STATUS, SOURCE-GET, ROUTE-GET and ACTION-GET (R21, R57, R63, R130, R182, R183, section 10.3):
each is answered with the part as it stands, or with the result of its range check, and changes nothing else. The requesting port
appears UP in STATUS. The model's choices: when a request is taken, log 4; STATUS shows the requesting port UP, log 17. -/
def Obligations.TablesAreRead : Prop :=
  (([.off, .rise, .fall, .both, .high, .low, .on] : List Mode).map modeCode = [0, 1, 2, 3, 4, 5, 6] ∧
    ([.none, .ms1, .ms4, .ms16, .ms64] : List FilterSetting).map filterCode = [0, 1, 2, 3, 4] ∧
    ([.rise, .fall, .active, .rearm, .internal] : List Kind).map kindCode = [1, 2, 3, 4, 5] ∧
    ([.serviced, .dropped] : List CloseOutcome).map closeOutcomeCode = [1, 2] ∧
    ([.dropNew, .dropOld] : List Policy).map policyCode = [0, 1] ∧
    ([.idle, .ready, .inService, .stalled] : List RouteState).map RouteState.code = [0, 1, 2, 3] ∧
    ([.immediate, .graced, .manual] : List ActionKind).map actionKindCode = [0, 1, 2] ∧
    ([.level, .pulse] : List Shape).map shapeCode = [0, 1] ∧
    ([.ms1, .ms10, .ms100, .ms1000] : List PulseWidth).map widthCode = [0, 1, 2, 3] ∧
    ([.ms1, .ms10, .ms100, .ms1000] : List PulseWidth).map pulseTime = [1000, 10000, 100000, 1000000] ∧
    ([.immediate, .graceExpiry, .request] : List FireCause).map fireCauseCode = [1, 2, 3] ∧
    ([.none, .pending, .ended] : List ActionNotice).map actionNoticeCode = [0, 1, 2] ∧
    ([.fired, .cancelled] : List GraceOutcome).map graceOutcomeCode = [1, 2] ∧
    ([.closed, .up, .enteringDormant, .dormant] : List Session).map sessionCode = [0, 1, 2, 3] ∧
    ([.powerOn, .pin, .soft, .linkBreak] : List ResetCause).map resetCauseCode = [1, 2, 3, 4] ∧
    ([.data, .ack, .announce] : List FrameType).map frameTypeCode = [1, 2, 3] ∧
    ([false, true].map flagCode = [0, 1] ∧ [Port.A, Port.B].map portCode = [0, 1] ∧
      [some Port.A, some Port.B, none].map ownerCode = [0, 1, 0xFF]) ∧
    ((∀ r : RouteNo, routeCode (some r) = BitVec.ofNat 8 r.val) ∧ routeCode none = 0xFF) ∧
    ((∀ i : SourceNo, triggerCode (some i) = BitVec.ofNat 8 i.val) ∧ triggerCode none = 0xFF) ∧
    (sourceStateCode .off = 0 ∧ sourceStateCode .watch = 1 ∧ (∀ q, sourceStateCode (.raised q) = 2) ∧
      ∀ left, sourceStateCode (.holdoff left) = 3) ∧
    (actionStateCode .idle = 0 ∧ (∀ left, actionStateCode (.grace left) = 1) ∧
      ∀ cause pulse, actionStateCode (.fired cause pulse) = 2) ∧
    ∀ t : Route,
      (t.stalled = true → t.state = .stalled) ∧
      (t.stalled = false → (∃ x ∈ t.queue, x.state = .offered) → t.state = .inService) ∧
      (t.stalled = false → t.queue = [] → t.state = .idle) ∧
      (t.stalled = false → t.queue ≠ [] → (∀ x ∈ t.queue, x.state = .pending) → t.state = .ready)) ∧
  ∀ (p : Port) (tag : Byte) (s : State),
    let condition := fun (absent : Port → Bool) (r : RouteNo) =>
      byte ((s.route r).state.code +
        (match (s.route r).owner with
          | none => 16
          | some q => if absent q then 32 else 0) +
        if (s.route r).cfg.masked then 64 else 0)
    let shown := fun q => if q = p then 1 else sessionCode (s.port q).session
    (Takes p 0x03 [tag] s →
      exec (.ping p [tag]) s = .next (s.answered p ([0x83, tag, 0x00] ++ leBytes 2 (s.port p).sessionNo.toNat))) ∧
    (Takes p 0x05 [tag] s →
      exec (.status p [tag]) s = .next (s.answered p
        ([0x85, tag, 0x00, shown .A, shown .B, byte s.store.freeGeneral, byte s.store.freeReserve] ++
          ([0, 1, 2, 3, 4, 5, 6, 7] : List RouteNo).flatMap fun r =>
            [condition (fun q => q ≠ p ∧ (s.port q).session ≠ .up) r, ownerCode (s.route r).owner,
              byte (s.route r).queue.length] ++ leBytes 2 (s.route r).lost))) ∧
    (∀ b : Byte, Takes p 0x11 [tag, b] s →
      (56 ≤ b.toNat → exec (.sourceGet p [tag, b]) s = .next (s.answered p [0x91, tag, 0x04])) ∧
      ∀ i : SourceNo, b.toNat = i.val →
        let t := s.source i
        exec (.sourceGet p [tag, b]) s = .next (s.answered p
          ([0x91, tag, 0x00, b, modeCode t.cfg.mode, filterCode t.cfg.filter, routeCode t.cfg.route, flagCode t.cfg.coalesce,
            byte t.cfg.holdoff, sourceStateCode t.state,
            if h : i.val < 48 then flagCode (s.line ⟨i.val, h⟩).isSettled else 0,
            if h : i.val < 48 then flagCode (s.line ⟨i.val, h⟩).level else 0] ++
            leBytes 4 (match t.state with
              | .raised (some q) => q.toNat
              | _ => 0) ++
            [byte (match t.state with
              | .holdoff left => (left + 9999) / 10000
              | _ => 0)]))) ∧
    (∀ b : Byte, Takes p 0x21 [tag, b] s →
      (8 ≤ b.toNat → exec (.routeGet p [tag, b]) s = .next (s.answered p [0xA1, tag, 0x05])) ∧
      ∀ r : RouteNo, b.toNat = r.val →
        let t := s.route r
        let c := t.cfg
        exec (.routeGet p [tag, b]) s = .next (s.answered p
          ([0xA1, tag, 0x00, b, byte c.priority, byte c.depth, if c.policy = .dropNew then 0 else 1, byte c.batchMax,
            byte c.serviceTimeout, byte c.retries, flagCode c.wake, flagCode c.failover, flagCode c.takeover,
            flagCode c.masked, ownerCode t.owner, condition (fun q => (s.port q).session ≠ .up) r, byte t.queue.length,
            byte (t.queue.filter fun x => x.state = .offered).length] ++
            leBytes 4 (match t.queue with
              | x :: _ => x.seq.toNat
              | [] => 0) ++ leBytes 2 t.lost ++
            (match t.batch with
              | some b => [b.tag, byte b.attempts]
              | none => [0, 0])))) ∧
    ∀ b : Byte, Takes p 0x31 [tag, b] s →
      (16 ≤ b.toNat → exec (.actionGet p [tag, b]) s = .next (s.answered p [0xB1, tag, 0x03])) ∧
      ∀ n : ActionNo, b.toNat = n.val →
        let a := s.action n
        let c := a.cfg
        exec (.actionGet p [tag, b]) s = .next (s.answered p
          ([0xB1, tag, 0x00, b, triggerCode c.trigger, actionKindCode c.kind, byte c.grace, shapeCode c.shape,
            widthCode c.width, flagCode c.activeHigh, flagCode c.pushPull, actionStateCode a.state, a.graceNo,
            byte (match a.state with
              | .grace left => (left + 99999) / 100000
              | _ => 0)] ++
            leBytes 2 (match a.state with
              | .fired _ (some left) => (left + 999) / 1000
              | _ => 0) ++
            [match a.state with
              | .fired cause _ => fireCauseCode cause
              | _ => 0,
            byte ((actionNoticeCode (s.port .A).actionNotices[n.val]).toNat +
              4 * (actionNoticeCode (s.port .B).actionNotices[n.val]).toNat)]))

/-- HISTORY-READ (R40, R41, section 10.3): the starting point and the GAP flag, the number of entries carried, the MORE flag
and the next close number; a maximum entry count outside 1 to 64 is BAD_VALUE; the ring is not changed. The model's choices:
when a request is taken, log 4. -/
def Obligations.HistoryIsRead : Prop :=
  ∀ (p : Port) (tag n0 n1 max : Byte) (s : State), s.history.consecutive → Takes p 0x38 [tag, n0, n1, max] s →
    let no := BitVec.ofNat 16 (n0.toNat + 256 * n1.toNat)
    let h := s.history
    (max.toNat = 0 ∨ 64 < max.toNat →
      exec (.historyRead p [tag, n0, n1, max]) s = .next (s.answered p [0xB8, tag, 0x03])) ∧
    (1 ≤ max.toNat → max.toNat ≤ 64 →
      ∃ (start : Nat) (gap : Bool),
        (∀ k : Fin h.entries.length, h.entries[k].closeNo = no → start = k ∧ gap = false) ∧
        (no = h.counter → start = h.entries.length ∧ gap = false) ∧
        ((∀ k : Fin h.entries.length, h.entries[k].closeNo ≠ no) → no ≠ h.counter → start = 0 ∧ gap = true) ∧
        let n := min max.toNat (min (((s.port p).params.maxPayload - 8) / 22) (h.entries.length - start))
        let carried := (h.entries.drop start).take n
        exec (.historyRead p [tag, n0, n1, max]) s = .next (s.answered p
          ([0xB8, tag, 0x00, byte n,
            byte ((if gap then 1 else 0) + if start + n < h.entries.length then 2 else 0)] ++
            leBytes 2 (match carried.getLast? with
              | some e => (e.closeNo + 1).toNat
              | none => h.counter.toNat) ++ [byte h.entries.length] ++
            carried.flatMap fun e =>
              leBytes 2 e.closeNo.toNat ++ leBytes 4 e.seq.toNat ++
                [byte e.source.val, kindCode e.kind, byte e.count, if e.outcome = .serviced then 1 else 2] ++
                leBytes 6 e.first.toNat ++ leBytes 6 e.closeTime.toNat)))

/-- SET-TIME (R17, R38): the Timebase takes the value carried, the reply carries the value replaced, and CONFIG_CHANGED has
its occurrence with the new time. CLOSE (R166) sets the closing mark and stops the silence timer; DORMANT (R169) is BUSY with
a route in service or the closing mark set, and else the port enters ENTERING_DORMANT; DEVICE-RESET (R184) makes a soft reset
pending. Their replies wait in the backlog, and CLOSE's and DEVICE-RESET's for their acknowledgement. The model's choices:
when a request is taken, log 4; the hand-off, log 8. -/
def Obligations.TimeIsSetAndSessionsAreLeft : Prop :=
  ∀ (p : Port) (tag : Byte) (s : State),
    let answer : Byte → Role → PortState → PortState := fun code role P =>
      { P with accepted := P.accepted.drop 1, backlog := P.backlog ++ [{ message := [code, tag, 0x00], role := role }] }
    (∀ b0 b1 b2 b3 b4 b5, Takes p 0x08 [tag, b0, b1, b2, b3, b4, b5] s →
      exec (.setTime p [tag, b0, b1, b2, b3, b4, b5]) s =
        .next (handOnHeld
          ({ s.answered p ([0x88, tag, 0x00] ++ leBytes 6 s.timebase.toNat) with
              timebase := b5 ++ b4 ++ b3 ++ b2 ++ b1 ++ b0 }.raise 55
            (BitVec.ofNat 16 (0x08 + 256 * (portCode p).toNat))))) ∧
    (Takes p 0x02 [tag] s →
      exec (.close p [tag]) s =
        .next (s.updPort p fun P => { answer 0x82 .close P with closing := true, silence := none })) ∧
    (Takes p 0x04 [tag] s →
      let busy := (s.port p).closing = true ∨ ∃ r, (s.route r).owner = some p ∧ (s.route r).state = .inService
      (busy → exec (.dormant p [tag]) s = .next (s.answered p [0x84, tag, 0x0A])) ∧
      (¬busy →
        exec (.dormant p [tag]) s =
          .next (s.updPort p fun P => { answer 0x84 .plain P with session := .enteringDormant }))) ∧
    (Takes p 0x06 [tag] s →
      exec (.deviceReset p [tag]) s =
        .next (s.updPort p fun P => { answer 0x86 .deviceReset P with resetPending := true }))

/-- OPEN (R162 to R165, R175, R176), accepted before or, with no break standing (R155), just now: a session the port has ends in order; then parameters in range open a session, and
others, or another length, bring the port UP under the fallback parameters to deliver the refusal as frame 0. The model's
choices: when an OPEN is taken, log 4; the acknowledgement owed, log 13; a pending soft reset, logs 14 and 28; a further OPEN
accepted before the first was taken, log 30. -/
def Obligations.OpenBeginsASession : Prop :=
  ∀ (p : Port) (seq : Byte) (rest : List Byte) (s : State), s.running →
    let e := (s.port p).expected
    ((∃ qs, (s.port p).accepted = { seq := seq, payload := 0x01 :: rest } :: qs) ∨
      ((s.port p).accepted = [] ∧ (s.port p).breakReported = false ∧
        ((s.port p).session = .closed ∨ ¬(seq = e - 1 ∨ seq = e - 2 ∨ seq = e - 3 ∨ seq = e - 4)))) →
    let t := if (s.port p).session = .closed then s.afterTake p else orderlyEnd p (s.afterTake p)
    let acked := fun (P : PortState) => if P.ackOwed = .clear then .waiting 1000 else P.ackOwed
    let refused := fun (tag result : Byte) =>
      exec (.openSession p seq rest) s = .next (t.updPort p fun P =>
        { P with
          expected := seq + 1, sendSeq := 1, closing := true, refusing := true, session := .up, announce := .stopped
          silence := none, params := { maxPayload := 64, window := 1, silenceLimit := 0, retransmit := 5 }, ackOwed := acked P
          window := P.window ++ [{ seq := 0, message := [0x81, tag, result], role := .refusedOpen, sent := .waiting }] })
    (rest.length ≠ 6 → refused (rest.headD 0) 0x02) ∧
    ∀ tag m0 m1 w limit timeout, rest = [tag, m0, m1, w, limit, timeout] →
      let m := m0.toNat + 256 * m1.toNat
      let inRange := 64 ≤ m ∧ m ≤ 1024 ∧ 1 ≤ w.toNat ∧ w.toNat ≤ 4 ∧ 1 ≤ timeout.toNat
      (¬inRange → refused tag 0x03) ∧
      (inRange →
        exec (.openSession p seq rest) s = .next (t.updPort p fun P =>
          { P with
            expected := seq + 1, sendSeq := 0, sessionNo := P.sessionNo + 1, closing := false, refusing := false
            session := .up, announce := .stopped, ackOwed := acked P
            params :=
              { maxPayload := m, window := w.toNat, silenceLimit := limit.toNat, retransmit := timeout.toNat }
            silence := if limit = 0 then none else some (limit.toNat * 100000)
            backlog :=
              { role := .plain
                message := [0x81, tag, 0x00] ++ leBytes 2 (P.sessionNo + 1).toNat ++ [0x16, 0x48, 0x01] ++
                  leBytes 4 t.store.nextSeq.toNat ++ [248, 8, 64] } :: P.backlog
            actionNotices := Vector.ofFn fun n : ActionNo =>
              match (t.action n).state with
              | .grace _ => .pending
              | _ => P.actionNotices[n.val] }))

/-- SOURCE-SET (R3, R17 to R20): the fields are checked in order, then both routes for permission; a request that passes
replaces the configuration, restarts the line's filter, puts the source in OFF or WATCH, is answered OK, and CONFIG_CHANGED
has its occurrence under the configuration then in force. A refusal changes nothing else. The model's choices: when a request
is taken, log 4; the candidate level of the restarted line, log 6; the hand-off, log 8. -/
def Obligations.SourceIsConfigured : Prop :=
  ∀ (p : Port) (tag b0 b1 b2 b3 b4 b5 : Byte) (s : State), Takes p 0x10 [tag, b0, b1, b2, b3, b4, b5] s →
    let refused := fun (result : Byte) =>
      exec (.sourceSet p [tag, b0, b1, b2, b3, b4, b5]) s = .next (s.answered p [0x90, tag, result])
    let badRoute := 8 ≤ b3.toNat ∧ b3.toNat ≤ 254
    let badMode := if b0.toNat < 48 then 5 < b1.toNat else b1.toNat ≠ 0 ∧ b1.toNat ≠ 6
    let badFilter := if b0.toNat < 48 then 4 < b2.toNat else b2.toNat ≠ 0
    (56 ≤ b0.toNat → refused 0x04) ∧
    (b0.toNat < 56 → badMode ∨ badFilter → refused 0x03) ∧
    (b0.toNat < 56 → ¬badMode → ¬badFilter → badRoute → refused 0x05) ∧
    (b0.toNat < 56 → ¬badMode → ¬badFilter → ¬badRoute →
      (1 < b4.toNat ∨ (48 ≤ b0.toNat ∧ (b4.toNat = 0 ∨ b5.toNat ≠ 0))) → refused 0x03) ∧
    ∀ (i : SourceNo) (c : SourceConfig),
      [b0, b1, b2, b3, b4, b5] =
        [byte i.val, modeCode c.mode, filterCode c.filter, routeCode c.route, flagCode c.coalesce, byte c.holdoff] →
      c.holdoff ≤ 255 →
      (if i.val < 48 then c.mode ≠ .on
        else (c.mode = .off ∨ c.mode = .on) ∧ c.filter = .none ∧ c.coalesce = true ∧ c.holdoff = 0) →
      let passes := fun r : Option RouteNo =>
        match r with
        | none => True
        | some q => (s.route q).owner = none ∨ (s.route q).owner = some p
      (¬(passes (s.source i).cfg.route ∧ passes c.route) → refused 0x06) ∧
      (passes (s.source i).cfg.route ∧ passes c.route →
        let t := (s.answered p [0x90, tag, 0x00]).updSource i fun _ =>
          { cfg := c, state := if c.mode = .off then .off else .watch }
        let u := if h : i.val < 48 then
            t.updLine ⟨i.val, h⟩ fun l => { raw := l.raw, filter := .unsettled false 0 }
          else t
        exec (.sourceSet p [tag, b0, b1, b2, b3, b4, b5]) s =
          .next (handOnHeld (u.raise 55 (BitVec.ofNat 16 (0x10 + 256 * (portCode p).toNat)))))

/-- Records that have left their queue close as one event (R28, R33, R34, R39): the history entries carry consecutive close numbers and
one close time, the ring keeps the newest 64, freed records fill the reserve first, STORE_LOW is armed again when the free general
count reaches 33, and the close reports are held in the order of closing. -/
def Obligations.RecordsCloseAsOneEvent : Prop :=
  ∀ (outcome : CloseOutcome) (time : Time) (xs : List Rec) (s : State), s.history.entries.length ≤ 64 →
    s.store.freeReserve ≤ 8 →
    let t := s.closeAll outcome time xs
    let general := s.store.freeGeneral + (xs.length - (8 - s.store.freeReserve))
    let all := s.history.entries ++ xs.mapIdx fun k x =>
      { closeNo := s.history.counter + BitVec.ofNat 16 k, seq := x.seq, source := x.source, kind := x.kind, count := x.count,
        outcome := outcome, first := x.first, closeTime := time }
    t.history = { entries := all.drop (all.length - 64), counter := s.history.counter + BitVec.ofNat 16 xs.length } ∧
      t.store = { s.store with
        freeReserve := min 8 (s.store.freeReserve + xs.length)
        freeGeneral := general
        lowArmed := s.store.lowArmed || (decide (s.store.freeGeneral ≤ 32) && decide (33 ≤ general)) } ∧
      t = { s with
        history := t.history, store := t.store
        held := s.held ++ xs.map fun x => .closeReport x.seq x.source time }

/-- ROUTE-SET (R59 to R62): the fields are checked in order, then the owner, then the depth against the OFFERED records; a
request that passes replaces the configuration, closes the oldest PENDING records that the new depth cuts as DROPPED, adds
their counts to the tally and answers their number; the close reports go first and CONFIG_CHANGED has its occurrence after
them. The model's choices: when a request is taken, log 4; the order of the hand-offs, log 8. -/
def Obligations.RouteIsConfigured : Prop :=
  ∀ (p : Port) (tag b0 b1 b2 b3 b4 b5 b6 b7 b8 b9 b10 : Byte) (s : State),
    let fields := [b0, b1, b2, b3, b4, b5, b6, b7, b8, b9, b10]
    Takes p 0x20 (tag :: fields) s →
    let refused := fun (result : Byte) => exec (.routeSet p (tag :: fields)) s = .next (s.answered p [0xA0, tag, result])
    (8 ≤ b0.toNat → refused 0x05) ∧
    (b0.toNat < 8 →
      3 < b1.toNat ∨ b2.toNat = 0 ∨ 64 < b2.toNat ∨ 1 < b3.toNat ∨ b4.toNat = 0 ∨ 16 < b4.toNat ∨ 7 < b6.toNat ∨
        1 < b7.toNat ∨ 1 < b8.toNat ∨ 1 < b9.toNat ∨ 1 < b10.toNat → refused 0x03) ∧
    ∀ (r : RouteNo) (c : RouteConfig),
      fields =
        [byte r.val, byte c.priority, byte c.depth, if c.policy = .dropNew then 0 else 1, byte c.batchMax,
          byte c.serviceTimeout, byte c.retries, flagCode c.wake, flagCode c.failover, flagCode c.takeover,
          flagCode c.masked] →
      c.priority ≤ 3 → 1 ≤ c.depth → c.depth ≤ 64 → 1 ≤ c.batchMax → c.batchMax ≤ 16 → c.serviceTimeout ≤ 255 →
      c.retries ≤ 7 →
      ((s.route r).owner = some (otherPort p) → refused 0x06) ∧
      ((s.route r).owner ≠ some (otherPort p) →
        ∀ offered pending : List Rec, (s.route r).queue = offered ++ pending → (∀ x ∈ offered, x.state = .offered) →
          (∀ x ∈ pending, x.state = .pending) →
          (c.depth < offered.length → refused 0x0A) ∧
          (offered.length ≤ c.depth →
            let n := offered.length + pending.length - c.depth
            let u := ((s.answered p [0xA0, tag, 0x00, byte n]).updRoute r fun t =>
              { t with
                cfg := c, queue := offered ++ pending.drop n
                lost := min (t.lost + ((pending.take n).map Rec.count).sum) 65535 }).closeAll .dropped s.timebase
              (pending.take n)
            exec (.routeSet p (tag :: fields)) s =
              .next (handOnHeld ((handOnNow u).raise 55 (BitVec.ofNat 16 (0x20 + 256 * (portCode p).toNat))))))

/-- CLAIM-ROUTE, RELEASE-ROUTE and RESUME-ROUTE (R89, R92, R94, R95, R99 to R103): range, ownership and the claim table; a
change of owner returns the batch marked, clears the stall and the flags as R94 says; a claim of an own route changes nothing;
CONFIG_CHANGED has its occurrence after a claim and a release. The model's choices: when a request is taken, log 4; the
hand-off, log 8. -/
def Obligations.RoutesChangeHands : Prop :=
  ∀ (p : Port) (tag b mode : Byte) (s : State),
    let given := fun (owner : Option Port) (t : Route) =>
      { t with
        queue := t.queue.map fun x => if x.state = .offered then { x with state := .pending, redelivered := true } else x
        batch := none, timer := none, stalled := false, owner := owner }
    let after := fun r : RouteNo => if (s.route r).queue = [] then 0x00 else 0x01
    let clears := fun (r : RouteNo) (P : PortState) => { P with routeNotices := P.routeNotices.set r.val .none }
    let changed := fun (code : Byte) (t : State) =>
      handOnHeld (t.raise 55 (BitVec.ofNat 16 (code.toNat + 256 * (portCode p).toNat)))
    (Takes p 0x22 [tag, b, mode] s →
      let claims := exec (.claimRoute p [tag, b, mode]) s
      (8 ≤ b.toNat → claims = .next (s.answered p [0xA2, tag, 0x05])) ∧
      (b.toNat < 8 → 1 < mode.toNat → claims = .next (s.answered p [0xA2, tag, 0x03])) ∧
      ∀ r : RouteNo, b.toNat = r.val → mode.toNat ≤ 1 →
        let owner := (s.route r).owner
        let other := (s.port (otherPort p)).session
        (owner = some p →
          claims = .next (changed 0x22 (s.answered p
            [0xA2, tag, 0x00, b, portCode p, portCode p, byte (s.route r).state.code]))) ∧
        (owner = none →
          claims = .next (changed 0x22 (((s.answered p
            [0xA2, tag, 0x00, b, 0xFF, portCode p, after r]).updRoute r (given (some p))).updPort p (clears r)))) ∧
        (owner = some (otherPort p) → other = .closed ∨ mode = 1 ∧ (s.route r).cfg.takeover = true →
          claims = .next (changed 0x22 ((((s.answered p
            [0xA2, tag, 0x00, b, portCode (otherPort p), portCode p, after r]).updRoute r (given (some p))).updPort
              (otherPort p) fun P =>
                { P with routeNotices := P.routeNotices.set r.val (if other = .closed then .none else .lost) }).updPort p
              (clears r)))) ∧
        (owner = some (otherPort p) → other ≠ .closed → mode = 0 ∨ (s.route r).cfg.takeover = false →
          claims = .next (s.answered p [0xA2, tag, 0x07, b, portCode (otherPort p)]))) ∧
    (Takes p 0x23 [tag, b] s →
      let releases := exec (.releaseRoute p [tag, b]) s
      (8 ≤ b.toNat → releases = .next (s.answered p [0xA3, tag, 0x05])) ∧
      ∀ r : RouteNo, b.toNat = r.val →
        ((s.route r).owner ≠ some p → releases = .next (s.answered p [0xA3, tag, 0x06])) ∧
        ((s.route r).owner = some p →
          releases = .next (changed 0x23 (((s.answered p [0xA3, tag, 0x00, b, after r]).updRoute r (given none)).updPort p
            (clears r))))) ∧
    (Takes p 0x24 [tag, b] s →
      let resumes := exec (.resumeRoute p [tag, b]) s
      (8 ≤ b.toNat → resumes = .next (s.answered p [0xA4, tag, 0x05])) ∧
      ∀ r : RouteNo, b.toNat = r.val →
        let t := s.updRoute r fun t => { t with stalled := false }
        ((s.route r).owner ≠ some p → resumes = .next (s.answered p [0xA4, tag, 0x06])) ∧
        ((s.route r).owner = some p →
          resumes = .next (t.answered p [0xA4, tag, 0x00, b, byte (t.route r).state.code])))

/-- SERVICE-DONE (R81, R82, R83): the checks in order; a request that passes closes the first k records of the batch as
SERVICED in one event, returns the others marked, settles the snapshot, discards the batch and its timer, and the close
reports follow the reply. The model's choices: when a request is taken, log 4; the hand-off, log 8. -/
def Obligations.ServiceDoneEndsTheBatch : Prop :=
  ∀ (p : Port) (tag b0 b1 b2 : Byte) (s : State), Takes p 0x25 [tag, b0, b1, b2] s →
    let refused := fun (result : Byte) =>
      exec (.serviceDone p [tag, b0, b1, b2]) s = .next (s.answered p [0xA5, tag, result])
    (8 ≤ b0.toNat → refused 0x05) ∧
    (b0.toNat < 8 → b1 = 0 ∨ 16 < b2.toNat → refused 0x03) ∧
    ∀ r : RouteNo, b0.toNat = r.val → b1 ≠ 0 → b2.toNat ≤ 16 →
      ((s.route r).owner ≠ some p → refused 0x06) ∧
      ((s.route r).owner = some p →
        ((s.route r).state ≠ .inService → refused 0x08) ∧
        ∀ b, (s.route r).batch = some b → (s.route r).state = .inService →
          (b.tag ≠ b1 → refused 0x08) ∧
          (b.tag = b1 → b.n < b2.toNat → refused 0x03) ∧
          (b.tag = b1 → b2.toNat ≤ b.n →
            let k := b2.toNat
            let queue := ((s.route r).queue.drop k).map fun x =>
              if x.state = .offered then { x with state := .pending, redelivered := true } else x
            let lost := (s.route r).lost - b.snapshot
            exec (.serviceDone p [tag, b0, b1, b2]) s =
              .next (handOnHeld (((s.answered p
                ([0xA5, tag, 0x00, b0, b1, b2, byte (b.n - k), byte queue.length] ++ leBytes 2 lost)).updRoute r fun t =>
                  { t with queue := queue, lost := lost, batch := none, timer := none }).closeAll .serviced s.timebase
                ((s.route r).queue.take k)))))

/-- ACTION-SET (R17, R129), CANCEL-ACTION (R119, R121, R125), SET-OUTPUT (R119, R121, R123, R127) and CLEAR-OUTPUT (R128): the
checks in order, the effect in each state, and the reply. The model's choices: when a request is taken, log 4; the hand-off,
log 8. -/
def Obligations.ActionsAreCommanded : Prop :=
  ∀ (p : Port) (tag b : Byte) (s : State),
    (∀ b1 b2 b3 b4 b5 b6 b7, Takes p 0x30 [tag, b, b1, b2, b3, b4, b5, b6, b7] s →
      let sets := exec (.actionSet p [tag, b, b1, b2, b3, b4, b5, b6, b7]) s
      let badTrigger := b1.toNat = 53
      let badSource := 56 ≤ b1.toNat ∧ b1.toNat ≤ 254
      (16 ≤ b.toNat → sets = .next (s.answered p [0xB0, tag, 0x03])) ∧
      (b.toNat < 16 → badTrigger → sets = .next (s.answered p [0xB0, tag, 0x0B])) ∧
      (b.toNat < 16 → badSource → sets = .next (s.answered p [0xB0, tag, 0x04])) ∧
      (b.toNat < 16 → ¬badTrigger → ¬badSource → 2 < b2.toNat → sets = .next (s.answered p [0xB0, tag, 0x03])) ∧
      (b.toNat < 16 → ¬badTrigger → ¬badSource → b2.toNat = 2 → b1.toNat ≠ 255 →
        sets = .next (s.answered p [0xB0, tag, 0x0B])) ∧
      (b.toNat < 16 → ¬badTrigger → ¬badSource → b2.toNat < 2 ∨ b2.toNat = 2 ∧ b1.toNat = 255 →
        b3.toNat = 0 ∨ 1 < b4.toNat ∨ 3 < b5.toNat ∨ 1 < b6.toNat ∨ 1 < b7.toNat →
        sets = .next (s.answered p [0xB0, tag, 0x03])) ∧
      ∀ (n : ActionNo) (c : ActionConfig),
        [b, b1, b2, b3, b4, b5, b6, b7] =
          [byte n.val, triggerCode c.trigger, actionKindCode c.kind, byte c.grace, shapeCode c.shape, widthCode c.width,
            flagCode c.activeHigh, flagCode c.pushPull] →
        c.trigger ≠ some 53 → (c.kind = .manual → c.trigger = none) → 1 ≤ c.grace → c.grace ≤ 255 →
        ((s.action n).state ≠ .idle → sets = .next (s.answered p [0xB0, tag, 0x0A])) ∧
        ((s.action n).state = .idle →
          sets = .next (handOnHeld (((s.answered p [0xB0, tag, 0x00]).updAction n fun a => { a with cfg := c }).raise 55
            (BitVec.ofNat 16 (0x30 + 256 * (portCode p).toNat)))))) ∧
    (16 ≤ b.toNat →
      (Takes p 0x32 [tag, b] s → exec (.cancelAction p [tag, b]) s = .next (s.answered p [0xB2, tag, 0x03])) ∧
      (Takes p 0x33 [tag, b] s → exec (.setOutput p [tag, b]) s = .next (s.answered p [0xB3, tag, 0x03])) ∧
      (Takes p 0x34 [tag, b] s → exec (.clearOutput p [tag, b]) s = .next (s.answered p [0xB4, tag, 0x03]))) ∧
    ∀ n : ActionNo, b.toNat = n.val →
      let no := (s.action n).graceNo
      let fires := fun (t : State) =>
        handOnHeld (((t.updAction n fun a =>
          { a with
            state := .fired .request (if a.cfg.shape = .pulse then some (pulseTime a.cfg.width) else none) }).raise 53
            (BitVec.ofNat 16 (n.val + 256 * 3))))
      (Takes p 0x32 [tag, b] s →
        let cancels := exec (.cancelAction p [tag, b]) s
        ((s.action n).state = .idle → cancels = .next (s.answered p [0xB2, tag, 0x0C, b, no, 0])) ∧
        (∀ cause pulse, (s.action n).state = .fired cause pulse →
          cancels = .next (s.answered p [0xB2, tag, 0x09, b, no, 2])) ∧
        (∀ left, (s.action n).state = .grace left →
          cancels = .next ((endGrace n .cancelled (some p) (s.answered p [0xB2, tag, 0x00, b, no, 0])).updAction n fun a =>
            { a with state := .idle }))) ∧
      (Takes p 0x33 [tag, b] s →
        let sets := exec (.setOutput p [tag, b]) s
        ((s.action n).state = .idle → sets = .next (fires (s.answered p [0xB3, tag, 0x00, b, 2, 3]))) ∧
        (∀ left, (s.action n).state = .grace left →
          sets = .next (fires (endGrace n .fired (some p) (s.answered p [0xB3, tag, 0x00, b, 2, 3])))) ∧
        (∀ cause pulse, (s.action n).state = .fired cause pulse →
          sets = .next (handOnHeld (s.answered p [0xB3, tag, 0x00, b, 2, fireCauseCode cause])))) ∧
      (Takes p 0x34 [tag, b] s →
        let clears := exec (.clearOutput p [tag, b]) s
        (∀ cause pulse, (s.action n).state = .fired cause pulse →
          clears = .next ((s.answered p [0xB4, tag, 0x00]).updAction n fun a => { a with state := .idle })) ∧
        ((s.action n).state = .idle ∨ (∃ left, (s.action n).state = .grace left) →
          clears = .next (s.answered p [0xB4, tag, 0x0D])))

/-! ## Invariants -/

/-- Every step keeps the store and the queues in order (R25, R26, R28, R43, R46, R48, R53): free and queued records are 256
together, no queue is longer than its depth, and counts, routes and tallies are in range. -/
def Obligations.StepKeepsStoreAndQueues : Prop :=
  ∀ s t : State, step s = .next t → s.poolsAgree ∧ s.queuesFit ∧ s.recordsInRange →
    t.poolsAgree ∧ t.queuesFit ∧ t.recordsInRange

/-- Every step keeps the close numbers of the History Ring consecutive (R39) and the sequence counter above 0 (R27). -/
def Obligations.StepKeepsHistoryAndCounter : Prop :=
  ∀ s t : State, step s = .next t → s.history.consecutive ∧ s.counterNotZero → t.history.consecutive ∧ t.counterNotZero

/-- Every step keeps the ports in order (R135, R148, R155, R156, R157, R158, R170, R171, R179): a CLOSED port holds nothing of a
session, a DORMANT one has nothing outstanding, one whose break stands is CLOSED, in HUNT, with nothing accepted and ANNOUNCE
suspended, no backlog holds more than 8 places, and no window more frames than W. -/
def Obligations.StepKeepsPortsInOrder : Prop :=
  ∀ s t : State, step s = .next t → s.placesWithinEight ∧ s.quietOutsideSessions ∧ s.windowsFit →
    t.placesWithinEight ∧ t.quietOutsideSessions ∧ t.windowsFit

/-- Every step keeps batches and queues agreeing (R47, R54, R67, R71, R105), with every setting in its range (R4, R43, R113, R162): the
OFFERED records of a route are the batch at its head, and only a route of a port that is UP has one. -/
def Obligations.StepKeepsBatchesAgreeing : Prop :=
  ∀ s t : State, step s = .next t → s.batchesAgree ∧ s.settingsInRange → t.batchesAgree ∧ t.settingsInRange

/-- All of these hold right after reset (R23, R35, R42, R64, R131, R135, R157). The model's choices: the values that the spec
does not give at reset are logs 5, 6 and 21. -/
def Obligations.InvariantsHoldAtReset : Prop :=
  State.reset.poolsAgree ∧ State.reset.queuesFit ∧ State.reset.recordsInRange ∧ State.reset.history.consecutive ∧
    State.reset.counterNotZero ∧ State.reset.placesWithinEight ∧ State.reset.quietOutsideSessions ∧
    State.reset.windowsFit ∧ State.reset.batchesAgree ∧ State.reset.settingsInRange
end

