-- ==== Sys2Proof/Laws/State.lean ====
section
/-! SUPPORT. Reading a field of State after each of its updates: one lemma per field per update, true by rfl; reading a table
entry or a port after an update of it. -/

namespace Sys2Proof.Machine

/-! ## State.updLine -/

@[simp] theorem State.updLine_pending (i : LineNo) (f : Line → Line) (s : State) : (s.updLine i f).pending = s.pending := rfl

@[simp] theorem State.updLine_hardReset (i : LineNo) (f : Line → Line) (s : State) : (s.updLine i f).hardReset = s.hardReset := rfl

@[simp] theorem State.updLine_rate1 (i : LineNo) (f : Line → Line) (s : State) : (s.updLine i f).rate1 = s.rate1 := rfl

@[simp] theorem State.updLine_rate0 (i : LineNo) (f : Line → Line) (s : State) : (s.updLine i f).rate0 = s.rate0 := rfl

@[simp] theorem State.updLine_timebase (i : LineNo) (f : Line → Line) (s : State) : (s.updLine i f).timebase = s.timebase := rfl

@[simp] theorem State.updLine_micro (i : LineNo) (f : Line → Line) (s : State) : (s.updLine i f).micro = s.micro := rfl

@[simp] theorem State.updLine_seconds (i : LineNo) (f : Line → Line) (s : State) : (s.updLine i f).seconds = s.seconds := rfl

@[simp] theorem State.updLine_sampleTime (i : LineNo) (f : Line → Line) (s : State) : (s.updLine i f).sampleTime = s.sampleTime := rfl

@[simp] theorem State.updLine_lines (i : LineNo) (f : Line → Line) (s : State) : (s.updLine i f).lines = Table.update s.lines i f := rfl

@[simp] theorem State.updLine_sources (i : LineNo) (f : Line → Line) (s : State) : (s.updLine i f).sources = s.sources := rfl

@[simp] theorem State.updLine_held (i : LineNo) (f : Line → Line) (s : State) : (s.updLine i f).held = s.held := rfl

@[simp] theorem State.updLine_store (i : LineNo) (f : Line → Line) (s : State) : (s.updLine i f).store = s.store := rfl

@[simp] theorem State.updLine_history (i : LineNo) (f : Line → Line) (s : State) : (s.updLine i f).history = s.history := rfl

@[simp] theorem State.updLine_routes (i : LineNo) (f : Line → Line) (s : State) : (s.updLine i f).routes = s.routes := rfl

@[simp] theorem State.updLine_actions (i : LineNo) (f : Line → Line) (s : State) : (s.updLine i f).actions = s.actions := rfl

@[simp] theorem State.updLine_ports (i : LineNo) (f : Line → Line) (s : State) : (s.updLine i f).ports = s.ports := rfl

@[simp] theorem State.updLine_arrivals (i : LineNo) (f : Line → Line) (s : State) : (s.updLine i f).arrivals = s.arrivals := rfl

@[simp] theorem State.source_updLine (i' : SourceNo) (i : LineNo) (f : Line → Line) (s : State) : (s.updLine i f).source i' = s.source i' := rfl

@[simp] theorem State.route_updLine (r' : RouteNo) (i : LineNo) (f : Line → Line) (s : State) : (s.updLine i f).route r' = s.route r' := rfl

@[simp] theorem State.action_updLine (n' : ActionNo) (i : LineNo) (f : Line → Line) (s : State) : (s.updLine i f).action n' = s.action n' := rfl

@[simp] theorem State.port_updLine (p' : Port) (i : LineNo) (f : Line → Line) (s : State) : (s.updLine i f).port p' = s.port p' := rfl

/-! ## State.updSource -/

@[simp] theorem State.updSource_pending (i : SourceNo) (f : Source → Source) (s : State) : (s.updSource i f).pending = s.pending := rfl

@[simp] theorem State.updSource_hardReset (i : SourceNo) (f : Source → Source) (s : State) : (s.updSource i f).hardReset = s.hardReset := rfl

@[simp] theorem State.updSource_rate1 (i : SourceNo) (f : Source → Source) (s : State) : (s.updSource i f).rate1 = s.rate1 := rfl

@[simp] theorem State.updSource_rate0 (i : SourceNo) (f : Source → Source) (s : State) : (s.updSource i f).rate0 = s.rate0 := rfl

@[simp] theorem State.updSource_timebase (i : SourceNo) (f : Source → Source) (s : State) : (s.updSource i f).timebase = s.timebase := rfl

@[simp] theorem State.updSource_micro (i : SourceNo) (f : Source → Source) (s : State) : (s.updSource i f).micro = s.micro := rfl

@[simp] theorem State.updSource_seconds (i : SourceNo) (f : Source → Source) (s : State) : (s.updSource i f).seconds = s.seconds := rfl

@[simp] theorem State.updSource_sampleTime (i : SourceNo) (f : Source → Source) (s : State) : (s.updSource i f).sampleTime = s.sampleTime := rfl

@[simp] theorem State.updSource_lines (i : SourceNo) (f : Source → Source) (s : State) : (s.updSource i f).lines = s.lines := rfl

@[simp] theorem State.updSource_sources (i : SourceNo) (f : Source → Source) (s : State) : (s.updSource i f).sources = Table.update s.sources i f := rfl

@[simp] theorem State.updSource_held (i : SourceNo) (f : Source → Source) (s : State) : (s.updSource i f).held = s.held := rfl

@[simp] theorem State.updSource_store (i : SourceNo) (f : Source → Source) (s : State) : (s.updSource i f).store = s.store := rfl

@[simp] theorem State.updSource_history (i : SourceNo) (f : Source → Source) (s : State) : (s.updSource i f).history = s.history := rfl

@[simp] theorem State.updSource_routes (i : SourceNo) (f : Source → Source) (s : State) : (s.updSource i f).routes = s.routes := rfl

@[simp] theorem State.updSource_actions (i : SourceNo) (f : Source → Source) (s : State) : (s.updSource i f).actions = s.actions := rfl

@[simp] theorem State.updSource_ports (i : SourceNo) (f : Source → Source) (s : State) : (s.updSource i f).ports = s.ports := rfl

@[simp] theorem State.updSource_arrivals (i : SourceNo) (f : Source → Source) (s : State) : (s.updSource i f).arrivals = s.arrivals := rfl

@[simp] theorem State.line_updSource (i' : LineNo) (i : SourceNo) (f : Source → Source) (s : State) : (s.updSource i f).line i' = s.line i' := rfl

@[simp] theorem State.route_updSource (r' : RouteNo) (i : SourceNo) (f : Source → Source) (s : State) : (s.updSource i f).route r' = s.route r' := rfl

@[simp] theorem State.action_updSource (n' : ActionNo) (i : SourceNo) (f : Source → Source) (s : State) : (s.updSource i f).action n' = s.action n' := rfl

@[simp] theorem State.port_updSource (p' : Port) (i : SourceNo) (f : Source → Source) (s : State) : (s.updSource i f).port p' = s.port p' := rfl

/-! ## State.updRoute -/

@[simp] theorem State.updRoute_pending (r : RouteNo) (f : Route → Route) (s : State) : (s.updRoute r f).pending = s.pending := rfl

@[simp] theorem State.updRoute_hardReset (r : RouteNo) (f : Route → Route) (s : State) : (s.updRoute r f).hardReset = s.hardReset := rfl

@[simp] theorem State.updRoute_rate1 (r : RouteNo) (f : Route → Route) (s : State) : (s.updRoute r f).rate1 = s.rate1 := rfl

@[simp] theorem State.updRoute_rate0 (r : RouteNo) (f : Route → Route) (s : State) : (s.updRoute r f).rate0 = s.rate0 := rfl

@[simp] theorem State.updRoute_timebase (r : RouteNo) (f : Route → Route) (s : State) : (s.updRoute r f).timebase = s.timebase := rfl

@[simp] theorem State.updRoute_micro (r : RouteNo) (f : Route → Route) (s : State) : (s.updRoute r f).micro = s.micro := rfl

@[simp] theorem State.updRoute_seconds (r : RouteNo) (f : Route → Route) (s : State) : (s.updRoute r f).seconds = s.seconds := rfl

@[simp] theorem State.updRoute_sampleTime (r : RouteNo) (f : Route → Route) (s : State) : (s.updRoute r f).sampleTime = s.sampleTime := rfl

@[simp] theorem State.updRoute_lines (r : RouteNo) (f : Route → Route) (s : State) : (s.updRoute r f).lines = s.lines := rfl

@[simp] theorem State.updRoute_sources (r : RouteNo) (f : Route → Route) (s : State) : (s.updRoute r f).sources = s.sources := rfl

@[simp] theorem State.updRoute_held (r : RouteNo) (f : Route → Route) (s : State) : (s.updRoute r f).held = s.held := rfl

@[simp] theorem State.updRoute_store (r : RouteNo) (f : Route → Route) (s : State) : (s.updRoute r f).store = s.store := rfl

@[simp] theorem State.updRoute_history (r : RouteNo) (f : Route → Route) (s : State) : (s.updRoute r f).history = s.history := rfl

@[simp] theorem State.updRoute_routes (r : RouteNo) (f : Route → Route) (s : State) : (s.updRoute r f).routes = Table.update s.routes r f := rfl

@[simp] theorem State.updRoute_actions (r : RouteNo) (f : Route → Route) (s : State) : (s.updRoute r f).actions = s.actions := rfl

@[simp] theorem State.updRoute_ports (r : RouteNo) (f : Route → Route) (s : State) : (s.updRoute r f).ports = s.ports := rfl

@[simp] theorem State.updRoute_arrivals (r : RouteNo) (f : Route → Route) (s : State) : (s.updRoute r f).arrivals = s.arrivals := rfl

@[simp] theorem State.line_updRoute (i' : LineNo) (r : RouteNo) (f : Route → Route) (s : State) : (s.updRoute r f).line i' = s.line i' := rfl

@[simp] theorem State.source_updRoute (i' : SourceNo) (r : RouteNo) (f : Route → Route) (s : State) : (s.updRoute r f).source i' = s.source i' := rfl

@[simp] theorem State.action_updRoute (n' : ActionNo) (r : RouteNo) (f : Route → Route) (s : State) : (s.updRoute r f).action n' = s.action n' := rfl

@[simp] theorem State.port_updRoute (p' : Port) (r : RouteNo) (f : Route → Route) (s : State) : (s.updRoute r f).port p' = s.port p' := rfl

/-! ## State.updAction -/

@[simp] theorem State.updAction_pending (n : ActionNo) (f : Action → Action) (s : State) : (s.updAction n f).pending = s.pending := rfl

@[simp] theorem State.updAction_hardReset (n : ActionNo) (f : Action → Action) (s : State) : (s.updAction n f).hardReset = s.hardReset := rfl

@[simp] theorem State.updAction_rate1 (n : ActionNo) (f : Action → Action) (s : State) : (s.updAction n f).rate1 = s.rate1 := rfl

@[simp] theorem State.updAction_rate0 (n : ActionNo) (f : Action → Action) (s : State) : (s.updAction n f).rate0 = s.rate0 := rfl

@[simp] theorem State.updAction_timebase (n : ActionNo) (f : Action → Action) (s : State) : (s.updAction n f).timebase = s.timebase := rfl

@[simp] theorem State.updAction_micro (n : ActionNo) (f : Action → Action) (s : State) : (s.updAction n f).micro = s.micro := rfl

@[simp] theorem State.updAction_seconds (n : ActionNo) (f : Action → Action) (s : State) : (s.updAction n f).seconds = s.seconds := rfl

@[simp] theorem State.updAction_sampleTime (n : ActionNo) (f : Action → Action) (s : State) : (s.updAction n f).sampleTime = s.sampleTime := rfl

@[simp] theorem State.updAction_lines (n : ActionNo) (f : Action → Action) (s : State) : (s.updAction n f).lines = s.lines := rfl

@[simp] theorem State.updAction_sources (n : ActionNo) (f : Action → Action) (s : State) : (s.updAction n f).sources = s.sources := rfl

@[simp] theorem State.updAction_held (n : ActionNo) (f : Action → Action) (s : State) : (s.updAction n f).held = s.held := rfl

@[simp] theorem State.updAction_store (n : ActionNo) (f : Action → Action) (s : State) : (s.updAction n f).store = s.store := rfl

@[simp] theorem State.updAction_history (n : ActionNo) (f : Action → Action) (s : State) : (s.updAction n f).history = s.history := rfl

@[simp] theorem State.updAction_routes (n : ActionNo) (f : Action → Action) (s : State) : (s.updAction n f).routes = s.routes := rfl

@[simp] theorem State.updAction_actions (n : ActionNo) (f : Action → Action) (s : State) : (s.updAction n f).actions = Table.update s.actions n f := rfl

@[simp] theorem State.updAction_ports (n : ActionNo) (f : Action → Action) (s : State) : (s.updAction n f).ports = s.ports := rfl

@[simp] theorem State.updAction_arrivals (n : ActionNo) (f : Action → Action) (s : State) : (s.updAction n f).arrivals = s.arrivals := rfl

@[simp] theorem State.line_updAction (i' : LineNo) (n : ActionNo) (f : Action → Action) (s : State) : (s.updAction n f).line i' = s.line i' := rfl

@[simp] theorem State.source_updAction (i' : SourceNo) (n : ActionNo) (f : Action → Action) (s : State) : (s.updAction n f).source i' = s.source i' := rfl

@[simp] theorem State.route_updAction (r' : RouteNo) (n : ActionNo) (f : Action → Action) (s : State) : (s.updAction n f).route r' = s.route r' := rfl

@[simp] theorem State.port_updAction (p' : Port) (n : ActionNo) (f : Action → Action) (s : State) : (s.updAction n f).port p' = s.port p' := rfl

/-! ## State.updPort -/

@[simp] theorem State.updPort_pending (p : Port) (f : PortState → PortState) (s : State) : (s.updPort p f).pending = s.pending := rfl

@[simp] theorem State.updPort_hardReset (p : Port) (f : PortState → PortState) (s : State) : (s.updPort p f).hardReset = s.hardReset := rfl

@[simp] theorem State.updPort_rate1 (p : Port) (f : PortState → PortState) (s : State) : (s.updPort p f).rate1 = s.rate1 := rfl

@[simp] theorem State.updPort_rate0 (p : Port) (f : PortState → PortState) (s : State) : (s.updPort p f).rate0 = s.rate0 := rfl

@[simp] theorem State.updPort_timebase (p : Port) (f : PortState → PortState) (s : State) : (s.updPort p f).timebase = s.timebase := rfl

@[simp] theorem State.updPort_micro (p : Port) (f : PortState → PortState) (s : State) : (s.updPort p f).micro = s.micro := rfl

@[simp] theorem State.updPort_seconds (p : Port) (f : PortState → PortState) (s : State) : (s.updPort p f).seconds = s.seconds := rfl

@[simp] theorem State.updPort_sampleTime (p : Port) (f : PortState → PortState) (s : State) : (s.updPort p f).sampleTime = s.sampleTime := rfl

@[simp] theorem State.updPort_lines (p : Port) (f : PortState → PortState) (s : State) : (s.updPort p f).lines = s.lines := rfl

@[simp] theorem State.updPort_sources (p : Port) (f : PortState → PortState) (s : State) : (s.updPort p f).sources = s.sources := rfl

@[simp] theorem State.updPort_held (p : Port) (f : PortState → PortState) (s : State) : (s.updPort p f).held = s.held := rfl

@[simp] theorem State.updPort_store (p : Port) (f : PortState → PortState) (s : State) : (s.updPort p f).store = s.store := rfl

@[simp] theorem State.updPort_history (p : Port) (f : PortState → PortState) (s : State) : (s.updPort p f).history = s.history := rfl

@[simp] theorem State.updPort_routes (p : Port) (f : PortState → PortState) (s : State) : (s.updPort p f).routes = s.routes := rfl

@[simp] theorem State.updPort_actions (p : Port) (f : PortState → PortState) (s : State) : (s.updPort p f).actions = s.actions := rfl

@[simp] theorem State.updPort_ports (p : Port) (f : PortState → PortState) (s : State) : (s.updPort p f).ports = s.ports.update p f := rfl

@[simp] theorem State.updPort_arrivals (p : Port) (f : PortState → PortState) (s : State) : (s.updPort p f).arrivals = s.arrivals := rfl

@[simp] theorem State.line_updPort (i' : LineNo) (p : Port) (f : PortState → PortState) (s : State) : (s.updPort p f).line i' = s.line i' := rfl

@[simp] theorem State.source_updPort (i' : SourceNo) (p : Port) (f : PortState → PortState) (s : State) : (s.updPort p f).source i' = s.source i' := rfl

@[simp] theorem State.route_updPort (r' : RouteNo) (p : Port) (f : PortState → PortState) (s : State) : (s.updPort p f).route r' = s.route r' := rfl

@[simp] theorem State.action_updPort (n' : ActionNo) (p : Port) (f : PortState → PortState) (s : State) : (s.updPort p f).action n' = s.action n' := rfl

/-! ## State.hold -/

@[simp] theorem State.hold_pending (items : List Held) (s : State) : (s.hold items).pending = s.pending := rfl

@[simp] theorem State.hold_hardReset (items : List Held) (s : State) : (s.hold items).hardReset = s.hardReset := rfl

@[simp] theorem State.hold_rate1 (items : List Held) (s : State) : (s.hold items).rate1 = s.rate1 := rfl

@[simp] theorem State.hold_rate0 (items : List Held) (s : State) : (s.hold items).rate0 = s.rate0 := rfl

@[simp] theorem State.hold_timebase (items : List Held) (s : State) : (s.hold items).timebase = s.timebase := rfl

@[simp] theorem State.hold_micro (items : List Held) (s : State) : (s.hold items).micro = s.micro := rfl

@[simp] theorem State.hold_seconds (items : List Held) (s : State) : (s.hold items).seconds = s.seconds := rfl

@[simp] theorem State.hold_sampleTime (items : List Held) (s : State) : (s.hold items).sampleTime = s.sampleTime := rfl

@[simp] theorem State.hold_lines (items : List Held) (s : State) : (s.hold items).lines = s.lines := rfl

@[simp] theorem State.hold_sources (items : List Held) (s : State) : (s.hold items).sources = s.sources := rfl

@[simp] theorem State.hold_held (items : List Held) (s : State) : (s.hold items).held = s.held ++ items := rfl

@[simp] theorem State.hold_store (items : List Held) (s : State) : (s.hold items).store = s.store := rfl

@[simp] theorem State.hold_history (items : List Held) (s : State) : (s.hold items).history = s.history := rfl

@[simp] theorem State.hold_routes (items : List Held) (s : State) : (s.hold items).routes = s.routes := rfl

@[simp] theorem State.hold_actions (items : List Held) (s : State) : (s.hold items).actions = s.actions := rfl

@[simp] theorem State.hold_ports (items : List Held) (s : State) : (s.hold items).ports = s.ports := rfl

@[simp] theorem State.hold_arrivals (items : List Held) (s : State) : (s.hold items).arrivals = s.arrivals := rfl

@[simp] theorem State.line_hold (i' : LineNo) (items : List Held) (s : State) : (s.hold items).line i' = s.line i' := rfl

@[simp] theorem State.source_hold (i' : SourceNo) (items : List Held) (s : State) : (s.hold items).source i' = s.source i' := rfl

@[simp] theorem State.route_hold (r' : RouteNo) (items : List Held) (s : State) : (s.hold items).route r' = s.route r' := rfl

@[simp] theorem State.action_hold (n' : ActionNo) (items : List Held) (s : State) : (s.hold items).action n' = s.action n' := rfl

@[simp] theorem State.port_hold (p' : Port) (items : List Held) (s : State) : (s.hold items).port p' = s.port p' := rfl

end Sys2Proof.Machine
end

