-- ==== Sys2Proof/Laws/Tables.lean ====
section
/-! SUPPORT. Reading an entry of a table, or a port, after an update of the table or of both ports. -/

namespace Sys2Proof.Machine

theorem Table.getElem_update {α : Type} {n : Nat} (t : Vector α n) (i : Fin n) (f : α → α) (j : Nat) (h : j < n) :
    (Table.update t i f)[j] = if i.val = j then f t[i.val] else t[j] := by
  unfold Table.update
  rw [Vector.getElem_set]

@[simp] theorem Table.getElem_map {α β : Type} {n : Nat} (t : Vector α n) (f : α → β) (j : Nat) (h : j < n) :
    (Table.map t f)[j] = f t[j] := by
  simp [Table.map]

@[simp] theorem Ports.get_update_same (ps : Ports) (p : Port) (f : PortState → PortState) :
    (ps.update p f).get p = f (ps.get p) := by
  cases p <;> rfl

theorem Ports.get_update_ne (ps : Ports) {p q : Port} (f : PortState → PortState) (h : q ≠ p) :
    (ps.update p f).get q = ps.get q := by
  cases p <;> cases q <;> first | rfl | exact absurd rfl h

theorem Ports.ext_get {a b : Ports} (h : ∀ p, a.get p = b.get p) : a = b := by
  have ha := h .A
  have hb := h .B
  cases a
  cases b
  simp only [Ports.get] at ha hb
  rw [ha, hb]

/-! ## An entry after an update of its own table -/

@[simp] theorem State.line_updLine_same (i : LineNo) (f : Line → Line) (s : State) :
    (s.updLine i f).line i = f (s.line i) := by
  simp [State.line, Table.getElem_update]

theorem State.line_updLine_ne {i j : LineNo} (f : Line → Line) (s : State) (h : j ≠ i) :
    (s.updLine i f).line j = s.line j := by
  have : i.val ≠ j.val := fun e => h (Fin.ext e.symm)
  simp [State.line, Table.getElem_update, this]

@[simp] theorem State.source_updSource_same (i : SourceNo) (f : Source → Source) (s : State) :
    (s.updSource i f).source i = f (s.source i) := by
  simp [State.source, Table.getElem_update]

theorem State.source_updSource_ne {i j : SourceNo} (f : Source → Source) (s : State) (h : j ≠ i) :
    (s.updSource i f).source j = s.source j := by
  have : i.val ≠ j.val := fun e => h (Fin.ext e.symm)
  simp [State.source, Table.getElem_update, this]

@[simp] theorem State.route_updRoute_same (r : RouteNo) (f : Route → Route) (s : State) :
    (s.updRoute r f).route r = f (s.route r) := by
  simp [State.route, Table.getElem_update]

theorem State.route_updRoute_ne {r q : RouteNo} (f : Route → Route) (s : State) (h : q ≠ r) :
    (s.updRoute r f).route q = s.route q := by
  have : r.val ≠ q.val := fun e => h (Fin.ext e.symm)
  simp [State.route, Table.getElem_update, this]

theorem State.route_updRoute (r q : RouteNo) (f : Route → Route) (s : State) :
    (s.updRoute r f).route q = if q = r then f (s.route r) else s.route q := by
  by_cases h : q = r
  · subst h
    simp
  · simp [State.route_updRoute_ne f s h, h]

@[simp] theorem State.action_updAction_same (n : ActionNo) (f : Action → Action) (s : State) :
    (s.updAction n f).action n = f (s.action n) := by
  simp [State.action, Table.getElem_update]

theorem State.action_updAction_ne {n m : ActionNo} (f : Action → Action) (s : State) (h : m ≠ n) :
    (s.updAction n f).action m = s.action m := by
  have : n.val ≠ m.val := fun e => h (Fin.ext e.symm)
  simp [State.action, Table.getElem_update, this]

@[simp] theorem State.port_updPort_same (p : Port) (f : PortState → PortState) (s : State) :
    (s.updPort p f).port p = f (s.port p) := by
  simp [State.port]

theorem State.port_updPort_ne {p q : Port} (f : PortState → PortState) (s : State) (h : q ≠ p) :
    (s.updPort p f).port q = s.port q := by
  simp [State.port, Ports.get_update_ne _ _ h]

theorem State.port_updPort (p q : Port) (f : PortState → PortState) (s : State) :
    (s.updPort p f).port q = if q = p then f (s.port p) else s.port q := by
  by_cases h : q = p
  · subst h
    simp
  · simp [State.port_updPort_ne f s h, h]

/-- Two updates of one port are one. -/
@[simp] theorem State.updPort_updPort (p : Port) (f g : PortState → PortState) (s : State) :
    (s.updPort p f).updPort p g = s.updPort p fun P => g (f P) := by
  cases p <;> rfl

/-- Updates of one port by functions that agree on it are equal. -/
theorem State.updPort_congr {p : Port} {f g : PortState → PortState} {s : State} (h : f (s.port p) = g (s.port p)) :
    s.updPort p f = s.updPort p g := by
  cases p <;> simp_all [State.updPort, State.port, Ports.update, Ports.get]

/-- An update that leaves the port as it is leaves the state as it is. -/
theorem State.updPort_id {p : Port} {f : PortState → PortState} {s : State} (h : f (s.port p) = s.port p) :
    s.updPort p f = s := by
  cases p <;> simp_all [State.updPort, State.port, Ports.update, Ports.get]

/-- An update that leaves the route as it is leaves the state as it is. -/
theorem State.updRoute_id {r : RouteNo} {f : Route → Route} {s : State} (h : f (s.route r) = s.route r) :
    s.updRoute r f = s := by
  have : f s.routes[r.val] = s.routes[r.val] := h
  simp [State.updRoute, Table.update, this]

/-- Updates of one route by functions that agree on it are equal. -/
theorem State.updRoute_congr {r : RouteNo} {f g : Route → Route} {s : State} (h : f (s.route r) = g (s.route r)) :
    s.updRoute r f = s.updRoute r g := by
  have : f s.routes[r.val] = g s.routes[r.val] := h
  simp [State.updRoute, Table.update, this]

/-- Two updates of one route are one. -/
@[simp] theorem State.updRoute_updRoute (r : RouteNo) (f g : Route → Route) (s : State) :
    (s.updRoute r f).updRoute r g = s.updRoute r fun t => g (f t) := by
  simp [State.updRoute, Table.update]

/-- Two updates of one action are one. -/
@[simp] theorem State.updAction_updAction (n : ActionNo) (f g : Action → Action) (s : State) :
    (s.updAction n f).updAction n g = s.updAction n fun t => g (f t) := by
  simp [State.updAction, Table.update]

/-- An update that leaves the source as it is leaves the state as it is. -/
theorem State.updSource_id {i : SourceNo} {f : Source → Source} {s : State} (h : f (s.source i) = s.source i) :
    s.updSource i f = s := by
  have : f s.sources[i.val] = s.sources[i.val] := h
  simp [State.updSource, Table.update, this]

/-- An update that leaves the action as it is leaves the state as it is. -/
theorem State.updAction_id {n : ActionNo} {f : Action → Action} {s : State} (h : f (s.action n) = s.action n) :
    s.updAction n f = s := by
  have : f s.actions[n.val] = s.actions[n.val] := h
  simp [State.updAction, Table.update, this]

/-! ## The line whose report comes first -/

theorem State.firstDue_eq_none_iff (s : State) : s.firstDue = none ↔ ∀ i, ¬s.lineDue i = true := by
  unfold State.firstDue
  rw [List.find?_eq_none]
  exact ⟨fun h i => h i (List.mem_ofFn.2 ⟨i, rfl⟩), fun h i _ => h i⟩

theorem State.firstDue_eq_some_iff (s : State) (i : LineNo) :
    s.firstDue = some i ↔ s.lineDue i = true ∧ ∀ j, j < i → ¬s.lineDue j = true := by
  unfold State.firstDue
  rw [List.find?_eq_some_iff_getElem]
  refine and_congr Iff.rfl ⟨?_, fun h => ⟨i.val, by rw [List.length_ofFn]; exact i.isLt, by rw [List.getElem_ofFn], ?_⟩⟩
  · rintro ⟨k, hk, e, h⟩ j hj
    rw [List.getElem_ofFn] at e
    have hn := h j.val (by subst e; exact hj)
    rw [List.getElem_ofFn] at hn
    simpa using hn
  · intro j hj
    rw [List.getElem_ofFn]
    simpa using h ⟨j, by omega⟩ hj

end Sys2Proof.Machine
end

