-- ==== Sys2Proof/Laws/Handoff.lean ====
section
/-! SUPPORT. Handing on: what it can do, said once. `HandOnKeeps P` lists the primitive changes; a property that each of them
keeps is kept by every hand-off. `KeptByHandOn` is such a property. -/

namespace Sys2Proof.Machine

/-- A property of states that every primitive change of a hand-off keeps. -/
structure HandOnKeeps (P : State → Prop) : Prop where
  held : ∀ items s, P s → P { s with held := items }
  answer : ∀ (i : SourceNo) (st : Source → SourceState) (s : State), P s → P (s.updSource i fun t => { t with state := st t })
  offer : ∀ o r s, P s → P (offer o r s).2
  fired : ∀ (n : ActionNo) (st : Action → ActionState) (s : State), P s → P (s.updAction n fun a => { a with state := st a })
  grace : ∀ n s, P s → P (enterGrace n s)

theorem State.hold_eq (items : List Held) (s : State) : s.hold items = { s with held := s.held ++ items } := rfl

variable {P : State → Prop}

theorem HandOnKeeps.hold (k : HandOnKeeps P) (items : List Held) (s : State) (h : P s) : P (s.hold items) :=
  k.held _ s h

theorem HandOnKeeps.raise (k : HandOnKeeps P) (i : SourceNo) (d : Half) (s : State) (h : P s) : P (s.raise i d) := by
  unfold State.raise
  split
  · exact h
  · exact k.hold _ s h

theorem HandOnKeeps.fire (k : HandOnKeeps P) (n : ActionNo) (c : FireCause) (s : State) (h : P s) : P (fire n c s) :=
  k.raise _ _ _ (k.fired n _ s h)

theorem HandOnKeeps.informAction (k : HandOnKeeps P) (i : SourceNo) (s : State) (n : ActionNo) (h : P s) :
    P (informAction i s n) := by
  unfold Machine.informAction
  split
  · split
    · exact k.fire _ _ _ h
    · exact k.grace _ _ h
    · exact h
  · exact h

theorem HandOnKeeps.informActions (k : HandOnKeeps P) (i : SourceNo) (s : State) (h : P s) : P (informActions i s) := by
  unfold Machine.informActions
  generalize allActions = l
  induction l generalizing s with
  | nil => exact h
  | cons n l ih => exact ih _ (k.informAction i s n h)

theorem HandOnKeeps.answerSource (k : HandOnKeeps P) (o : Occurrence) (a : Answer) (s : State) (h : P s) :
    P (answerSource o a s) := by
  unfold Machine.answerSource
  split
  · exact k.answer _ _ _ h
  · exact h

theorem HandOnKeeps.handOn (k : HandOnKeeps P) (o : Occurrence) (s : State) (h : P s) : P (handOn o s) := by
  unfold Machine.handOn
  cases o.route with
  | none => exact k.informActions _ _ (k.answerSource _ _ _ h)
  | some r => exact k.informActions _ _ (k.answerSource _ _ _ (k.offer _ _ _ h))

theorem HandOnKeeps.occur (k : HandOnKeeps P) (i : SourceNo) (kind : Kind) (t : Time) (s : State) (h : P s) :
    P (occur i kind t s) := k.handOn _ s h

theorem HandOnKeeps.takeCloseReport (k : HandOnKeeps P) (q : Seq) (i : SourceNo) (t : Time) (s : State) (h : P s) :
    P (takeCloseReport q i t s) := by
  unfold Machine.takeCloseReport
  split
  · split
    · split
      · exact k.occur _ _ _ _ (k.answer _ _ _ h)
      · exact k.answer _ _ _ h
    · exact k.answer _ _ _ h
  · exact h

theorem HandOnKeeps.handHeld (k : HandOnKeeps P) (x : Held) (s : State) (h : P s) : P (handHeld x s) := by
  cases x with
  | occurrence o => exact k.handOn o s h
  | closeReport q i t => exact k.takeCloseReport q i t s h

theorem HandOnKeeps.handSome (k : HandOnKeeps P) (m : Nat) (s : State) (h : P s) : P (handSome m s) := by
  induction m generalizing s with
  | zero => exact h
  | succ m ih =>
    unfold Machine.handSome
    cases s.held with
    | nil => exact h
    | cons x rest => exact ih _ (k.handHeld x _ (k.held rest s h))

theorem HandOnKeeps.handOnHeld (k : HandOnKeeps P) (s : State) (h : P s) : P (handOnHeld s) := by
  unfold Machine.handOnHeld
  exact k.handSome _ s h

/-! ## What the pieces of an offer change -/

theorem handOnHeld_of_held_nil (s : State) (h : s.held = []) : handOnHeld s = s := by
  unfold Machine.handOnHeld Config.handOffs
  unfold Machine.handSome
  simp [h]

/-- Closing records writes the ring, frees records and holds close reports; it changes nothing else. -/
theorem closeAll_eq (out : CloseOutcome) (time : Time) (xs : List Rec) (s : State) :
    s.closeAll out time xs =
      { s with
        history := xs.foldl (fun h x => h.write out time x) s.history
        store := xs.foldl (fun st _ => st.free) s.store
        held := s.held ++ closeReports time xs } := by
  have aux : ∀ (xs : List Rec) (s : State),
      xs.foldl (State.closeRecord out time) s =
        { s with
          history := xs.foldl (fun h x => h.write out time x) s.history
          store := xs.foldl (fun st _ => st.free) s.store } := by
    intro xs
    induction xs with
    | nil => intro s; rfl
    | cons x xs ih => intro s; rw [List.foldl_cons, ih]; rfl
  unfold State.closeAll
  rw [aux]
  rfl

/-- The only changes of an offer on route `r`: the queue and the tally of the route, the store, the ring, what is held. -/
def OfferChanges (r : RouteNo) (s t : State) : Prop :=
  ∃ (queue : List Rec) (lost : Nat) (store : Store) (history : History) (held : List Held),
    t = { (s.updRoute r fun u => { u with queue := queue, lost := lost }) with
            store := store, history := history, held := held }

theorem sameQueueAndTally (r : RouteNo) (s : State) :
    (s.updRoute r fun u => { u with queue := (s.route r).queue, lost := (s.route r).lost }) = s :=
  State.updRoute_id (Eq.refl _)

/-- A change of the store, the ring and what is held alone. -/
theorem OfferChanges.beside (r : RouteNo) (store : Store) (history : History) (held : List Held) (s : State) :
    OfferChanges r s { s with store := store, history := history, held := held } :=
  ⟨(s.route r).queue, (s.route r).lost, store, history, held, by rw [sameQueueAndTally]⟩

theorem OfferChanges.rfl (r : RouteNo) (s : State) : OfferChanges r s s := .beside r s.store s.history s.held s

theorem OfferChanges.trans {r : RouteNo} {s t u : State} (h : OfferChanges r s t) (h' : OfferChanges r t u) :
    OfferChanges r s u := by
  obtain ⟨q, l, st, hi, he, e⟩ := h
  obtain ⟨q', l', st', hi', he', e'⟩ := h'
  exact ⟨q', l', st', hi', he', by rw [e', e]; simp [State.updRoute, Table.update]⟩

theorem OfferChanges.raise (r : RouteNo) (i : SourceNo) (d : Half) (s : State) : OfferChanges r s (s.raise i d) := by
  unfold State.raise
  split
  · exact .rfl r s
  · exact .beside r s.store s.history _ s

theorem OfferChanges.queueLost (r : RouteNo) (queue : Route → List Rec) (lost : Route → Nat) (s : State) :
    OfferChanges r s (s.updRoute r fun u => { u with queue := queue u, lost := lost u }) :=
  ⟨queue (s.route r), lost (s.route r), s.store, s.history, s.held, Eq.refl _⟩

theorem OfferChanges.lose (r : RouteNo) (k : Nat) (s : State) : OfferChanges r s (s.updRoute r (Route.lose k)) :=
  .queueLost r (fun u => u.queue) (fun u => min (u.lost + k) Config.tallyMax) s

theorem OfferChanges.closeAll (r : RouteNo) (out : CloseOutcome) (time : Time) (xs : List Rec) (s : State) :
    OfferChanges r s (s.closeAll out time xs) := by
  rw [closeAll_eq]
  exact .beside r _ _ _ s

theorem OfferChanges.withStore (r : RouteNo) (st : Store) (s : State) : OfferChanges r s { s with store := st } :=
  .beside r st s.history s.held s

theorem OfferChanges.makeRoom (o : Occurrence) (r : RouteNo) (s : State) : OfferChanges r s (makeRoom o r s).2 := by
  have h1 : OfferChanges r s (if o.source = srcRouteOverflow then s else s.raise srcRouteOverflow (detailOf r.val 0)) := by
    split
    · exact .rfl r s
    · exact .raise r _ _ s
  unfold Machine.makeRoom
  dsimp only
  split
  · exact .rfl r s
  · split
    · exact (h1.trans (.queueLost r (fun _ => _) (fun u => min (u.lost + _) Config.tallyMax) _)).trans (.closeAll r _ _ _ _)
    · exact h1.trans (.lose r 1 _)

theorem OfferChanges.createRec (o : Occurrence) (r : RouteNo) (s : State) : OfferChanges r s (createRec o r s) := by
  have h1 := (OfferChanges.queueLost r (fun t => t.queue ++ [newRec o r s.store.nextSeq]) (fun t => t.lost) s).trans
    (.withStore r s.store.take _)
  unfold Machine.createRec
  dsimp only
  split
  · exact h1.trans (.raise r _ _ _)
  · exact h1

/-- Everything that an offer can change. -/
theorem offer_changes (o : Occurrence) (r : RouteNo) (s : State) : OfferChanges r s (offer o r s).2 := by
  have hr := OfferChanges.makeRoom o r s
  unfold offer
  split
  · exact .queueLost r (fun _ => _) (fun u => u.lost) s
  · split
    · split
      · rename_i s1 e
        rw [e] at hr
        exact hr.trans (.createRec o r s1)
      · rename_i s1 e
        rw [e] at hr
        exact hr
    · exact .lose r 1 s

/-! ## What every hand-off keeps -/

theorem KeptByHandOn.rfl (s : State) : KeptByHandOn s s := by
  constructor <;> intros <;> exact Eq.refl _

/-- The fields that a hand-off keeps are kept by every primitive change of one. -/
theorem keptByHandOn_keeps (s₀ : State) : HandOnKeeps (KeptByHandOn s₀) where
  held items s h := ⟨h.1, h.2, h.3, h.4, h.5, h.6, h.7, h.8, h.9, h.10, h.11, h.12, h.13, h.14⟩
  answer i st s h :=
    ⟨h.1, h.2, h.3, h.4, h.5, h.6, h.7, h.8, h.9, h.10,
      fun j => by
        rw [← h.11 j]
        by_cases e : j = i
        · subst e; simp
        · rw [State.source_updSource_ne _ _ e],
      h.12, h.13, h.14⟩
  offer o r s h := by
    obtain ⟨q, l, st, hi, he, e⟩ := offer_changes o r s
    rw [e]
    refine ⟨h.1, h.2, h.3, h.4, h.5, h.6, h.7, h.8, h.9, h.10, h.11, fun x => ?_, h.13, h.14⟩
    have hx := h.12 x
    change { (s.updRoute r fun u => { u with queue := q, lost := l }).route x with
      queue := (s₀.route x).queue, lost := (s₀.route x).lost } = s₀.route x
    rw [State.route_updRoute]
    split
    · rename_i e; subst e; exact hx
    · exact hx
  fired n st s h :=
    ⟨h.1, h.2, h.3, h.4, h.5, h.6, h.7, h.8, h.9, h.10, h.11, h.12,
      fun m => by
        have hm := h.13 m
        by_cases e : m = n
        · subst e; simpa using hm
        · rw [State.action_updAction_ne _ _ e]; exact hm,
      h.14⟩
  grace n s h := by
    unfold enterGrace
    refine ⟨h.1, h.2, h.3, h.4, h.5, h.6, h.7, h.8, h.9, h.10, h.11, h.12, fun m => ?_, fun p => ?_⟩
    · have hm := h.13 m
      simp only [State.action_updPort]
      by_cases e : m = n
      · subst e; simpa using hm
      · rw [State.action_updAction_ne _ _ e]; exact hm
    · have hp := h.14 p
      cases p
      · rw [State.port_updPort_ne _ _ (by decide), State.port_updPort_same]
        exact hp
      · rw [State.port_updPort_same, State.port_updPort_ne _ _ (by decide)]
        exact hp

/-- What a hand-off of everything held keeps (R7, R8). -/
theorem handOnHeld_kept (s : State) : KeptByHandOn s (handOnHeld s) :=
  (keptByHandOn_keeps s).handOnHeld s (.rfl s)

/-- What a hand-off of one occurrence keeps. -/
theorem handOn_kept (o : Occurrence) (s : State) : KeptByHandOn s (handOn o s) :=
  (keptByHandOn_keeps s).handOn o s (.rfl s)

end Sys2Proof.Machine
end

