-- ==== Sys2Proof/Laws/Offers.lean ====
section
/-! SUPPORT. What an offer, a hand-off and an information of the actions read and write, said once for each part of State. -/

namespace Sys2Proof.Machine

theorem History.write_entries (out : CloseOutcome) (time : Time) (x : Rec) (h : History) :
    (h.write out time x).entries = (if h.entries.length < 64 then h.entries else h.entries.drop 1) ++
        [{ closeNo := h.counter, seq := x.seq, source := x.source, kind := x.kind, count := x.count, outcome := out,
           first := x.first, closeTime := time }] := rfl

theorem Store.free_eq (st : Store) : st.free = if st.freeReserve < 8 then { st with freeReserve := st.freeReserve + 1 }
  else { st with freeGeneral := st.freeGeneral + 1, lowArmed := st.lowArmed || st.freeGeneral == 32 } := rfl

theorem offer_action (o : Occurrence) (r : RouteNo) (s : State) (n : ActionNo) : (offer o r s).2.action n = s.action n := by
  obtain ⟨q, l, st, hi, he, e⟩ := offer_changes o r s
  rw [e]; rfl

theorem offer_port (o : Occurrence) (r : RouteNo) (s : State) (n : Port) : (offer o r s).2.port n = s.port n := by
  obtain ⟨q, l, st, hi, he, e⟩ := offer_changes o r s
  rw [e]; rfl

theorem offer_source (o : Occurrence) (r : RouteNo) (s : State) (n : SourceNo) : (offer o r s).2.source n = s.source n := by
  obtain ⟨q, l, st, hi, he, e⟩ := offer_changes o r s
  rw [e]; rfl

theorem State.raise_changes (i : SourceNo) (d : Half) (s : State) : ∃ h, s.raise i d = { s with held := h } := by
  unfold State.raise; split
  · exact ⟨s.held, rfl⟩
  · exact ⟨_, rfl⟩

theorem State.raise_held (i : SourceNo) (d : Half) (s : State) : s.raise i d = { s with held := (s.raise i d).held } := by
  unfold State.raise; split <;> rfl

theorem State.raise_appends (i : SourceNo) (d : Half) (s : State) : ∃ m, (s.raise i d).held = s.held ++ m := by
  unfold State.raise; split
  · exact ⟨[], by simp⟩
  · exact ⟨_, rfl⟩

theorem enterGrace_port (n : ActionNo) (s : State) (p : Port) : (enterGrace n s).port p = (s.port p).hearGrace n := by
  cases p <;> rfl

theorem informAction_ne (i : SourceNo) (s : State) (n m : ActionNo) (h : n ≠ m) :
    (informAction i s m).action n = s.action n ∧
    ∀ p, ((informAction i s m).port p).told[n.val] = (s.port p).told[n.val] ∧
      ((informAction i s m).port p).actionNotices[n.val] = (s.port p).actionNotices[n.val] ∧
      ((informAction i s m).port p).session = (s.port p).session := by
  have hv : m.val ≠ n.val := fun e => h (Fin.ext e.symm)
  unfold informAction
  split
  · split
    · unfold fire
      obtain ⟨x, e⟩ := State.raise_changes srcActionFired (detailOf m.val (fireCauseCode .immediate).toNat) (s.updAction m fun a =>
    { a with state := .fired .immediate (if a.cfg.shape = .pulse then some (pulseTime a.cfg.width) else none) })
      rw [e]
      exact ⟨State.action_updAction_ne _ _ h, fun p => ⟨rfl, rfl, rfl⟩⟩
    · have hp := enterGrace_port m s
      refine ⟨by simp [enterGrace, State.action_updAction_ne _ _ h], fun p => ?_⟩
      refine ⟨?_, ?_, ?_⟩
      · show ((enterGrace m s).port p).told[n.val] = _
        simp only [hp, PortState.hearGrace]; rw [Vector.getElem_set_ne _ _ hv]
      · show ((enterGrace m s).port p).actionNotices[n.val] = _
        simp only [hp, PortState.hearGrace]
        split
        · rfl
        · rw [Vector.getElem_set_ne _ _ hv]
      · show ((enterGrace m s).port p).session = _
        simp only [hp, PortState.hearGrace]
    · exact ⟨rfl, fun p => ⟨rfl, rfl, rfl⟩⟩
  · exact ⟨rfl, fun p => ⟨rfl, rfl, rfl⟩⟩

theorem informAction_foldl_ne (i : SourceNo) (n : ActionNo) (l : List ActionNo) (s : State) (h : n ∉ l) :
    (l.foldl (informAction i) s).action n = s.action n ∧
    ∀ p, ((l.foldl (informAction i) s).port p).told[n.val] = (s.port p).told[n.val] ∧
      ((l.foldl (informAction i) s).port p).actionNotices[n.val] = (s.port p).actionNotices[n.val] ∧
      ((l.foldl (informAction i) s).port p).session = (s.port p).session := by
  induction l generalizing s with
  | nil => exact ⟨rfl, fun p => ⟨rfl, rfl, rfl⟩⟩
  | cons m l ih =>
    simp only [List.mem_cons, not_or] at h
    have h1 := informAction_ne i s n m h.1
    have h2 := ih (informAction i s m) h.2
    refine ⟨h2.1.trans h1.1, fun p => ⟨(h2.2 p).1.trans (h1.2 p).1, (h2.2 p).2.1.trans (h1.2 p).2.1, (h2.2 p).2.2.trans (h1.2 p).2.2⟩⟩

theorem informActions_at (i : SourceNo) (n : ActionNo) (s : State) : ∃ u : State,
    u.action n = s.action n ∧ (∀ p, (u.port p).told[n.val] = (s.port p).told[n.val] ∧
      (u.port p).actionNotices[n.val] = (s.port p).actionNotices[n.val] ∧ (u.port p).session = (s.port p).session) ∧
    (informActions i s).action n = (informAction i u n).action n ∧
    ∀ p, ((informActions i s).port p).told[n.val] = ((informAction i u n).port p).told[n.val] ∧
      ((informActions i s).port p).actionNotices[n.val] = ((informAction i u n).port p).actionNotices[n.val] := by
  have hs : ∃ a b, allActions = a ++ n :: b ∧ n ∉ a ∧ n ∉ b := by
    refine ⟨allActions.take n.val, allActions.drop (n.val + 1), ?_, ?_, ?_⟩ <;> revert n <;> decide
  obtain ⟨a, b, e, ha, hb⟩ := hs
  refine ⟨a.foldl (informAction i) s, (informAction_foldl_ne i n a s ha).1, (informAction_foldl_ne i n a s ha).2, ?_⟩
  unfold informActions
  rw [e, List.foldl_append, List.foldl_cons]
  have := informAction_foldl_ne i n b (informAction i (a.foldl (informAction i) s) n) hb
  exact ⟨this.1, fun p => ⟨(this.2 p).1, (this.2 p).2.1⟩⟩

theorem informAction_keeps (i : SourceNo) (s : State) (n : ActionNo) :
    (informAction i s n).store = s.store ∧ (informAction i s n).routes = s.routes ∧ (informAction i s n).history = s.history
      ∧ (informAction i s n).sources = s.sources := by
  unfold informAction
  split
  · split
    · unfold fire
      obtain ⟨x, e⟩ := State.raise_changes srcActionFired (detailOf n.val (fireCauseCode .immediate).toNat) (s.updAction n fun a =>
    { a with state := .fired .immediate (if a.cfg.shape = .pulse then some (pulseTime a.cfg.width) else none) })
      rw [e]; exact ⟨rfl, rfl, rfl, rfl⟩
    · exact ⟨rfl, rfl, rfl, rfl⟩
    · exact ⟨rfl, rfl, rfl, rfl⟩
  · exact ⟨rfl, rfl, rfl, rfl⟩

theorem informActions_keeps (i : SourceNo) (s : State) :
    (informActions i s).store = s.store ∧ (informActions i s).routes = s.routes ∧ (informActions i s).history = s.history
      ∧ (informActions i s).sources = s.sources := by
  unfold informActions
  generalize allActions = l
  induction l generalizing s with
  | nil => exact ⟨rfl, rfl, rfl, rfl⟩
  | cons n l ih =>
    have h1 := informAction_keeps i s n
    have h2 := ih (informAction i s n)
    exact ⟨h2.1.trans h1.1, h2.2.1.trans h1.2.1, h2.2.2.1.trans h1.2.2.1, h2.2.2.2.trans h1.2.2.2⟩

theorem handOn_source (o : Occurrence) (s : State) (i : SourceNo) : (handOn o s).source i =
   (answerSource o (match o.route with | none => (Answer.routeNone, s) | some r => offer o r s).1
     (match o.route with | none => (Answer.routeNone, s) | some r => offer o r s).2).source i := by
  exact congrArg (fun t : Vector Source 56 => t[i.val]) (informActions_keeps _ _).2.2.2

/-- A hand-off changes the store, the routes and the history by the offer alone. -/
theorem handOn_keeps (o : Occurrence) (s : State) :
    let t := match o.route with
      | none => s
      | some r => (offer o r s).2
    (handOn o s).store = t.store ∧ (handOn o s).routes = t.routes ∧ (handOn o s).history = t.history := by
  unfold handOn
  cases o.route with
  | none =>
    have h := informActions_keeps o.source (answerSource o .routeNone s)
    refine ⟨h.1.trans ?_, h.2.1.trans ?_, h.2.2.1.trans ?_⟩ <;> (unfold answerSource; split <;> rfl)
  | some r =>
    have h := informActions_keeps o.source (answerSource o (offer o r s).1 (offer o r s).2)
    refine ⟨h.1.trans ?_, h.2.1.trans ?_, h.2.2.1.trans ?_⟩ <;> (unfold answerSource; split <;> rfl)

theorem foldNewest_none (o : Occurrence) (q : List Rec) (h : ∀ x ∈ q, ¬(x.state = .pending ∧ x.source = o.source)) :
    foldNewest o q = none := by
  induction q with
  | nil => rfl
  | cons x q ih =>
    unfold foldNewest
    rw [ih fun y hy => h y (List.mem_cons_of_mem _ hy)]
    have := h x (List.mem_cons_self ..)
    simp [Rec.takes, this]

theorem nothingToFold_foldNewest (o : Occurrence) (r : RouteNo) (s : State) (h : NothingToFold o r s) :
    (if o.coalesce = true then foldNewest o (s.route r).queue else none) = none := by
  split
  · rename_i hc; exact foldNewest_none o _ (h hc)
  · rfl

theorem available_iff (o : Occurrence) (s : State) : s.store.available o.source = true ↔ RecordAvailable o s := by
  simp [Store.available, RecordAvailable]

theorem overflowReported_eq (o : Occurrence) (r : RouteNo) (s : State) :
    (if o.source = srcRouteOverflow then s else s.raise srcRouteOverflow (detailOf r.val 0)) = overflowReported o r s := by
  unfold overflowReported
  have : (o.source = srcRouteOverflow) ↔ (o.source.val = 50) := by
    rw [Fin.ext_iff]; rfl
  simp only [this]
  rfl

theorem overflowReported_route (o : Occurrence) (r : RouteNo) (s : State) (q : RouteNo) :
    (overflowReported o r s).route q = s.route q := by
  unfold overflowReported
  split
  · rfl
  · obtain ⟨h, e⟩ := State.raise_changes 50 (BitVec.ofNat 16 r.val) s
    rw [e]; rfl

theorem overflowReported_held (o : Occurrence) (r : RouteNo) (s : State) :
    overflowReported o r s = { s with held := (overflowReported o r s).held } := by
  unfold overflowReported; split
  · rfl
  · exact State.raise_held _ _ _

theorem splitOldestPending_allOffered (q : List Rec) (h : ∀ x ∈ q, x.state = .offered) : splitOldestPending q = none := by
  induction q with
  | nil => rfl
  | cons x q ih =>
    unfold splitOldestPending
    rw [h x (List.mem_cons_self ..), ih fun y hy => h y (List.mem_cons_of_mem _ hy)]
    rfl

theorem splitOldestPending_first (a : List Rec) (x : Rec) (b : List Rec) (h : ∀ y ∈ a, y.state = .offered) (hx : x.state = .pending) :
    splitOldestPending (a ++ x :: b) = some (x, a ++ b) := by
  induction a with
  | nil => simp [splitOldestPending, hx]
  | cons y a ih =>
    rw [List.cons_append]; unfold splitOldestPending
    rw [h y (List.mem_cons_self ..), ih fun z hz => h z (List.mem_cons_of_mem _ hz)]
    rfl

theorem queue_le_queued (s : State) (r : RouteNo) : (s.route r).queue.length ≤ s.queued := by
  unfold State.queued queuedOn
  exact List.single_le_sum (by simp) _ (List.mem_map.2 ⟨r, by revert r; decide, rfl⟩)

theorem splitPending_of_prefix (n : Nat) (a b : List Rec) (ha : ∀ x ∈ a, x.state = .offered) (hb : ∀ x ∈ b, x.state = .pending) (hn : n ≤ b.length) :
    splitPending n (a ++ b) = (b.take n, a ++ b.drop n) := by
  induction a with
  | nil =>
    induction b generalizing n with
    | nil => simp at hn; subst hn; rfl
    | cons x xs ih =>
      cases n with
      | zero => rfl
      | succ n =>
        have hx := hb x (by simp)
        have := ih n (fun y hy => hb y (by simp [hy])) (by simpa using hn)
        simp only [List.nil_append] at this ⊢
        simp only [splitPending, hx, if_true, this]
        rfl
  | cons x xs ih =>
    have hx := ha x (by simp)
    have := ih (fun y hy => ha y (by simp [hy]))
    cases n with
    | zero => rfl
    | succ n =>
      simp only [List.cons_append, splitPending, hx]
      rw [this]; simp

theorem offeredCount_of_prefix (a b : List Rec) (ha : ∀ x ∈ a, x.state = .offered) (hb : ∀ x ∈ b, x.state = .pending) :
    offeredCount (a ++ b) = a.length := by
  unfold offeredCount
  rw [List.filter_append, List.filter_eq_self.2, List.filter_eq_nil_iff.2]
  · simp
  · intro x hx; simp [hb x hx]
  · intro x hx; simp [ha x hx]

theorem countSum_eq_sum (l : List Rec) : countSum l = (l.map Rec.count).sum := by
  unfold countSum
  rw [List.sum_eq_foldl]

theorem allRoutes_mem (r : RouteNo) : r ∈ allRoutes := by revert r; decide

theorem allActions_mem (r : ActionNo) : r ∈ allActions := by revert r; decide

end Sys2Proof.Machine
end

