-- ==== Sys2Proof/Laws/Held.lean ====
section
/-! SUPPORT. What the Source Table holds: which item a hand-off takes next, that everything raised joins behind what is held,
and what the firings of the Action Unit report. -/

namespace Sys2Proof.Machine

/-! ## Which items are handed on -/

theorem handOnHeld_eq_handSome (s : State) : handOnHeld s = handSome 4096 s := by
  unfold handOnHeld Config.handOffs; rfl

theorem handSome_of_held_nil {s : State} (h : s.held = []) (k : Nat) : handSome k s = s := by
  cases k with
  | zero => rfl
  | succ k => unfold handSome; rw [h]

theorem handSome_of_held_cons {s : State} {x : Held} {rest : List Held} (h : s.held = x :: rest) (k : Nat) :
    handSome (k + 1) s = handSome k (handHeld x { s with held := rest }) := by
  rw [handSome]; rw [h]

theorem handSome_of_finished (k m : Nat) (s : State) (h : (handSome k s).held = []) : handSome (k + m) s = handSome k s := by
  induction k generalizing s with
  | zero => exact handSome_of_held_nil h _
  | succ k ih =>
    cases e : s.held with
    | nil => rw [handSome_of_held_nil e, handSome_of_held_nil e]
    | cons x rest =>
      rw [handSome_of_held_cons e] at h
      rw [Nat.add_right_comm, handSome_of_held_cons e, handSome_of_held_cons e]
      exact ih _ h

/-! ## Everything raised joins behind what is held -/

/-- `t` holds what `s` holds, and more behind it. -/
def HoldsMore (s t : State) : Prop := ∃ more, t.held = s.held ++ more

theorem HoldsMore.of_eq {s t : State} (h : t.held = s.held) : HoldsMore s t := ⟨[], by rw [h, List.append_nil]⟩

theorem HoldsMore.trans {s t u : State} (h : HoldsMore s t) (h' : HoldsMore t u) : HoldsMore s u := by
  obtain ⟨m, e⟩ := h
  obtain ⟨m', e'⟩ := h'
  exact ⟨m ++ m', by rw [e', e, List.append_assoc]⟩

theorem HoldsMore.raise (i : SourceNo) (d : Half) (s : State) : HoldsMore s (s.raise i d) := State.raise_appends i d s

theorem HoldsMore.closeAll (out : CloseOutcome) (time : Time) (xs : List Rec) (s : State) :
    HoldsMore s (s.closeAll out time xs) := by
  rw [closeAll_eq]
  exact ⟨closeReports time xs, rfl⟩

theorem HoldsMore.makeRoom (o : Occurrence) (r : RouteNo) (s : State) : HoldsMore s (makeRoom o r s).2 := by
  have h : HoldsMore s (if o.source = srcRouteOverflow then s else s.raise srcRouteOverflow (detailOf r.val 0)) := by
    split
    · exact .of_eq rfl
    · exact .raise ..
  unfold Machine.makeRoom
  dsimp only
  split
  · exact .of_eq rfl
  · split
    · exact (h.trans (.of_eq rfl)).trans (.closeAll ..)
    · exact h.trans (.of_eq rfl)

theorem HoldsMore.createRec (o : Occurrence) (r : RouteNo) (s : State) : HoldsMore s (createRec o r s) := by
  unfold Machine.createRec
  dsimp only
  split
  · exact .trans (.of_eq rfl) (.raise ..)
  · exact .of_eq rfl

theorem HoldsMore.offer (o : Occurrence) (r : RouteNo) (s : State) : HoldsMore s (offer o r s).2 := by
  have h := HoldsMore.makeRoom o r s
  unfold Machine.offer
  split
  · exact .of_eq rfl
  · split
    · split
      · rename_i s1 e
        rw [e] at h
        exact h.trans (.createRec o r s1)
      · rename_i s1 e
        rw [e] at h
        exact h
    · exact .of_eq rfl

theorem answerSource_held (o : Occurrence) (a : Answer) (s : State) : (answerSource o a s).held = s.held := by
  unfold answerSource
  split <;> rfl

theorem HoldsMore.informAction (i : SourceNo) (s : State) (n : ActionNo) : HoldsMore s (informAction i s n) := by
  unfold Machine.informAction
  split
  · split
    · exact .trans (.of_eq rfl) (.raise ..)
    · exact .of_eq rfl
    · exact .of_eq rfl
  · exact .of_eq rfl

theorem HoldsMore.informActions (i : SourceNo) (s : State) : HoldsMore s (informActions i s) := by
  unfold Machine.informActions
  generalize allActions = l
  induction l generalizing s with
  | nil => exact .of_eq rfl
  | cons n l ih => exact .trans (.informAction i s n) (ih _)

/-- A hand-off of one occurrence leaves what is held in its place, with what it raises behind. -/
theorem HoldsMore.handOn (o : Occurrence) (s : State) : HoldsMore s (handOn o s) := by
  unfold Machine.handOn
  cases o.route with
  | none => exact .trans (.of_eq (answerSource_held ..)) (.informActions ..)
  | some r => exact .trans ((HoldsMore.offer o r s).trans (.of_eq (answerSource_held ..))) (.informActions ..)

theorem HoldsMore.occur (i : SourceNo) (kind : Kind) (time : Time) (s : State) : HoldsMore s (occur i kind time s) :=
  .handOn _ s

theorem HoldsMore.updSource (i : SourceNo) (f : Source → Source) (s : State) : HoldsMore s (s.updSource i f) := .of_eq rfl

theorem HoldsMore.takeCloseReport (q : Seq) (i : SourceNo) (time : Time) (s : State) :
    HoldsMore s (takeCloseReport q i time s) := by
  unfold Machine.takeCloseReport
  split
  · split
    · split
      · exact (HoldsMore.updSource ..).trans (.occur ..)
      · exact .updSource ..
    · exact .updSource ..
  · exact .of_eq rfl

/-! ## What the firings report -/

/-- An occurrence of source `i` makes this action fire at once (R117). -/
def Action.firesFor (i : SourceNo) (a : Action) : Bool :=
  a.cfg.trigger == some i && a.state == .idle && a.cfg.kind == .immediate

/-- What a condition that a block reports leaves held: one occurrence, or none while its source is OFF. -/
def State.reports (i : SourceNo) (detail : Half) (s : State) : List Held :=
  if (s.source i).state = .off then []
  else [.occurrence { source := i, kind := .internal, detail := detail, time := s.timebase,
                      route := (s.source i).cfg.route, coalesce := true }]

theorem State.raise_eq_reports (i : SourceNo) (detail : Half) (s : State) :
    s.raise i detail = { s with held := s.held ++ s.reports i detail } := by
  unfold State.raise State.reports
  split
  · rw [List.append_nil]
  · rfl

theorem informAction_held (i : SourceNo) (s : State) (n : ActionNo) :
    (informAction i s n).held =
      s.held ++ if (s.action n).firesFor i then s.reports srcActionFired (detailOf n.val 1) else [] := by
  unfold informAction Action.firesFor
  by_cases h : (s.action n).cfg.trigger = some i ∧ (s.action n).state = .idle
  · rw [if_pos h, h.1, h.2]
    cases (s.action n).cfg.kind with
    | immediate =>
      simp only [beq_self_eq_true, Bool.and_self, if_true]
      exact congrArg State.held (State.raise_eq_reports srcActionFired (detailOf n.val 1) (s.updAction n fun a =>
        { a with state := .fired .immediate (if a.cfg.shape = .pulse then some (pulseTime a.cfg.width) else none) }))
    | graced => simp; rfl
    | manual => simp
  · rw [if_neg h]
    simp only [Bool.and_eq_true, beq_iff_eq, h, false_and, if_false, List.append_nil]

theorem informAction_reports (i : SourceNo) (s : State) (n : ActionNo) (j : SourceNo) (d : Half) :
    (informAction i s n).reports j d = s.reports j d := by
  unfold State.reports State.source
  rw [(informAction_keeps i s n).2.2.2, ((keptByHandOn_keeps s).informAction i s n (.rfl s)).timebase]

/-- The firings of a run through different actions report in its order. -/
theorem informAction_foldl_held (i : SourceNo) (l : List ActionNo) (s : State) (hl : l.Nodup) :
    (l.foldl (informAction i) s).held =
      s.held ++ (l.filter fun n => (s.action n).firesFor i).flatMap fun n => s.reports srcActionFired (detailOf n.val 1) := by
  induction l generalizing s with
  | nil => simp
  | cons n l ih =>
    rw [List.nodup_cons] at hl
    have same : ∀ m ∈ l, ((informAction i s n).action m).firesFor i = (s.action m).firesFor i := fun m hm => by
      rw [(informAction_ne i s m n fun e => hl.1 (e ▸ hm)).1]
    rw [List.foldl_cons, ih _ hl.2, informAction_held, List.filter_congr same, List.filter_cons]
    simp only [informAction_reports]
    cases (s.action n).firesFor i <;> simp

/-- What a hand-off of one occurrence leaves held: what the offer does, and the reports of the actions it fires. -/
theorem handOn_held (o : Occurrence) (s : State) :
    (handOn o s).held =
      (match o.route with
        | none => s.held
        | some r => (offer o r s).2.held) ++
        (allActions.filter fun n => (s.action n).firesFor o.source).flatMap fun n =>
          (handOn o s).reports srcActionFired (detailOf n.val 1) := by
  obtain ⟨v, hv, ha, hh⟩ : ∃ v, handOn o s = informActions o.source v ∧ (∀ n, v.action n = s.action n) ∧
      v.held = (match o.route with
        | none => s.held
        | some r => (offer o r s).2.held) := by
    refine ⟨_, rfl, fun n => ?_, ?_⟩
    · cases o.route with
      | none => simp only [answerSource]; split <;> rfl
      | some r => simp only [answerSource]; split <;> exact offer_action o r s n
    · rw [answerSource_held]; cases o.route <;> rfl
  have hr : ∀ j d, (handOn o s).reports j d = v.reports j d := fun j d => by
    rw [hv]
    unfold State.reports State.source
    rw [(informActions_keeps _ _).2.2.2, ((keptByHandOn_keeps v).informActions o.source v (.rfl v)).timebase]
  simp only [hr]
  rw [hv, informActions, informAction_foldl_held o.source allActions v (by decide), hh]
  simp only [ha]

/-! ## Close reports -/

/-- A level source's line is active (R4), said of its filter and its mode. -/
theorem State.lineActive_iff (s : State) (i : SourceNo) :
    s.lineActive i = true ↔ ∃ (h : i.val < 48) (level : Bool) (run : Nat),
      (s.line ⟨i.val, h⟩).filter = .settled level run ∧
        ((s.source i).cfg.mode = .high ∧ level = true ∨ (s.source i).cfg.mode = .low ∧ level = false) := by
  unfold State.lineActive lineOf
  by_cases h : i.val < 48
  · simp only [h, dite_true]
    cases f : (s.line ⟨i.val, h⟩).filter with
    | unsettled c n => simp [f]
    | settled level run => cases m : (s.source i).cfg.mode <;> cases level <;> simp [activeLevel, f]
  · simp [h]

end Sys2Proof.Machine
end

