-- ==== Sys2Proof/Laws/Link.lean ====
section
/-! SUPPORT. The Link Port and its scheduler: each test and each shared change of a port, as an equation or an equivalence. -/

namespace Sys2Proof.Machine

/-! ## What the receiver takes (R155) -/

theorem received_of_mark {p : Port} {s : State} (h : s.running) (hm : (s.port p).breakReported = false) (f : State → State) :
    received p s f = .next (f s) := by
  have h' : s.hardReset = none := h
  simp [received, taken, h', hm]

theorem received_of_space {p : Port} {s : State} (hb : (s.port p).breakReported = true) (f : State → State) :
    received p s f = .next s := by
  simp [received, taken, hb]

/-! ## The session layer and the receiver -/

theorem PortState.hearFrame_toHunt (P : PortState) (h : P.session ≠ .closed) :
    PortState.hearFrame (PortState.toHunt P) = P.heard := by
  unfold PortState.hearFrame PortState.listen PortState.toHunt PortState.heard
  cases hs : P.session with
  | closed => exact absurd hs h
  | up => simp only [ms]; by_cases h1 : P.params.silenceLimit = 0 <;> cases h2 : P.closing <;> simp [h1]
  | enteringDormant => simp only [ms]; by_cases h1 : P.params.silenceLimit = 0 <;> cases h2 : P.closing <;> simp [h1]
  | dormant => simp only [ms]; by_cases h1 : P.params.silenceLimit = 0 <;> cases h2 : P.closing <;> simp [h1]

theorem PortState.heard_expected (P : PortState) : P.heard.expected = P.expected := rfl

theorem PortState.heard_session (P : PortState) (h : P.session ≠ .closed) : P.heard.session ≠ .closed := by
  unfold PortState.heard; dsimp only; split <;> simp_all

theorem duplicateSeq_iff (e q : Byte) : duplicateSeq e q = true ↔ (q = e - 1 ∨ q = e - 2 ∨ q = e - 3 ∨ q = e - 4) := by
  simp only [duplicateSeq, Bool.and_eq_true, decide_eq_true_eq]
  constructor
  · rintro ⟨h1, h2⟩
    have : (e - q) = 1 ∨ (e - q) = 2 ∨ (e - q) = 3 ∨ (e - q) = 4 := by
      have : (e-q).toNat = 1 ∨ (e-q).toNat = 2 ∨ (e-q).toNat = 3 ∨ (e-q).toNat = 4 := by omega
      rcases this with h | h | h | h
      · left; exact BitVec.eq_of_toNat_eq h
      · right; left; exact BitVec.eq_of_toNat_eq h
      · right; right; left; exact BitVec.eq_of_toNat_eq h
      · right; right; right; exact BitVec.eq_of_toNat_eq h
    rcases this with h | h | h | h <;> rw [← h] <;> simp
  · rintro (h | h | h | h) <;> subst h <;> simp

theorem aheadSeq_iff (e q : Byte) : aheadSeq e q = true ↔ (q = e + 1 ∨ q = e + 2 ∨ q = e + 3) := by
  simp only [aheadSeq, Bool.and_eq_true, decide_eq_true_eq]
  constructor
  · rintro ⟨h1, h2⟩
    have : (q - e) = 1 ∨ (q - e) = 2 ∨ (q - e) = 3 := by
      have : (q - e).toNat = 1 ∨ (q - e).toNat = 2 ∨ (q - e).toNat = 3 := by omega
      rcases this with h | h | h
      · left; exact BitVec.eq_of_toNat_eq h
      · right; left; exact BitVec.eq_of_toNat_eq h
      · right; right; exact BitVec.eq_of_toNat_eq h
    rcases this with h | h | h <;> rw [← h] <;> simp
  · rintro (h | h | h) <;> subst h <;> simp

theorem isOpen_iff (l : List Byte) : isOpen l = true ↔ l.head? = some 0x01 := by
  simp [isOpen, openCode]

theorem PortState.record_eq (set : ReportFlags → ReportFlags) (P : PortState) :
    P.record set = { P with report := if P.session = .closed then P.report else set P.report } := by
  unfold PortState.record; split <;> rfl

theorem PortState.demand_eq (P : PortState) :
    P.demand = { P with ackDemand := if P.session = .closed then P.ackDemand else true } := by
  unfold PortState.demand; split <;> rfl

theorem rescan_none (l : List Byte) (h : (0xB4 : Byte) ∉ l) : rescan l = .hunt := by
  unfold rescan
  have : l.dropWhile (fun b => b != syncByte) = [] := by
    rw [List.dropWhile_eq_nil_iff]
    intro x hx
    simp only [bne_iff_ne, ne_eq, syncByte]
    intro e; subst e; exact h hx
  rw [this]

theorem rescan_some (a b : List Byte) (h : (0xB4 : Byte) ∉ a) :
    rescan (a ++ (0xB4 : Byte) :: b) = .header ((0xB4 : Byte) :: b) := by
  unfold rescan
  have : (a ++ (0xB4 : Byte) :: b).dropWhile (fun b => b != syncByte) = (0xB4 : Byte) :: b := by
    rw [List.dropWhile_append_of_pos]
    · simp [syncByte]
    · intro x hx
      simp only [bne_iff_ne, ne_eq, syncByte]
      intro e; subst e; exact h hx
  rw [this]

theorem PortState.judgeHeader_closed (h : List Byte) (P : PortState) (hc : P.session = .closed) :
    ∃ r, P.judgeHeader h = { P with receiver := r } := by
  unfold PortState.judgeHeader
  simp only [PortState.record_eq, hc, if_true]
  split
  · exact ⟨_, rfl⟩
  · split
    · exact ⟨_, rfl⟩
    · split
      · exact ⟨_, rfl⟩
      · exact ⟨_, rfl⟩

theorem splitWindow_none (a : Byte) (l : List Slot) (h : ∀ w ∈ l, w.seq ≠ a) : splitWindow a l = none := by
  induction l with
  | nil => rfl
  | cons w l ih =>
    unfold splitWindow
    rw [if_neg (h w (List.mem_cons_self ..)), ih fun x hx => h x (List.mem_cons_of_mem _ hx)]; rfl

theorem splitWindow_some (a : Byte) (f : List Slot) (w : Slot) (r : List Slot) (hw : w.seq = a) (h : ∀ x ∈ f, x.seq ≠ a) :
   splitWindow a (f ++ w :: r) = some (f ++ [w], r) := by
  induction f with
  | nil => simp [splitWindow, hw]
  | cons x f ih =>
    rw [List.cons_append]; unfold splitWindow
    rw [if_neg (h x (List.mem_cons_self ..)), ih fun y hy => h y (List.mem_cons_of_mem _ hy)]; rfl

theorem PortState.quiet_iff (P : PortState) :
    P.quiet = true ↔ (P.session = .enteringDormant ∧ P.window = [] ∧ P.backlog = [] ∧ P.accepted = [] ∧ P.ackOwed = .clear ∧
          P.ackDemand = false) := by
  simp [PortState.quiet, and_assoc]

theorem PortState.addRound_eq : PortState.addRound = fun P : PortState => { P with
          attempts := P.attempts + 1
          round := if P.round = [] then P.window.map Slot.seq else P.round
          roundsDue := if P.round = [] then P.roundsDue else P.roundsDue + 1 } := by
  funext P
  unfold PortState.addRound
  cases h : P.round <;> simp

theorem PortState.mayExpire_iff (P : PortState) :
    P.mayExpire = true ↔ P.expiryNow = .byTimer ∧ P.retransmit ≠ none ∨ P.expiryNow = .joined := by
  unfold PortState.mayExpire
  cases P.expiryNow <;> simp [Option.isSome_iff_ne_none]

theorem PortState.not_mayExpire_of_precluded {P : PortState} (h : P.expiryNow = .precluded) : P.mayExpire = false := by
  simp [PortState.mayExpire, h]

theorem PortState.not_mayExpire_ackWindow (rest : List Slot) (P : PortState) : (P.ackWindow rest).mayExpire = false := rfl

theorem find_first_match (f b : List Slot) (w : Slot) (c : Slot → Bool) (h : ∀ x ∈ f, c x = false) (hw : c w = true) :
    (f ++ w :: b).find? c = some w := by
  rw [List.find?_append, List.find?_eq_none.2 (by simpa using h)]
  simp [hw]

theorem map_finish_of_absent (q : Byte) (l : List Slot) (h : ∀ x ∈ l, x.seq ≠ q) : l.map (Slot.finish q) = l := by
  induction l with
  | nil => rfl
  | cons x l ih =>
    simp only [List.map_cons, ih fun y hy => h y (List.mem_cons_of_mem _ hy)]
    simp [Slot.finish, h x (List.mem_cons_self ..)]

theorem AckOwed.set_eq (a : AckOwed) : a.set = if a = .clear then .waiting 1000 else a := by
  cases a <;> simp [AckOwed.set, ms]

theorem State.goesBefore_iff (s : State) (r q : RouteNo) :
    s.goesBefore r q = true ↔ ((s.route r).cfg.priority < (s.route q).cfg.priority ∨
      ((s.route r).cfg.priority = (s.route q).cfg.priority ∧
        s.store.age (s.route q).headSeq < s.store.age (s.route r).headSeq)) := by
  simp [State.goesBefore]

end Sys2Proof.Machine
end

