-- ==== Sys2Proof/Laws/Operands.lean ====
section
/-! SUPPORT. The fields of messages: reading a field back from its code, and which bytes each range check refuses. -/

namespace Sys2Proof.Machine

theorem leBytes_bit (k n i : Nat) (h : i < 8 * k) : ((leBytes k n).getD (i / 8) 0).getLsbD (i % 8) = n.testBit i := by
  induction k generalizing n i with
  | zero => omega
  | succ k ih =>
    simp only [leBytes]
    by_cases h8 : i < 8
    · have h0 : i / 8 = 0 := by omega
      rw [h0]
      simp only [List.getD_cons_zero, byte, BitVec.getLsbD_ofNat]
      rw [Nat.mod_eq_of_lt h8]
      simp [h8]
    · have h1 : i / 8 = (i - 8) / 8 + 1 := by omega
      have h2 : i % 8 = (i - 8) % 8 := by omega
      rw [h1, h2, List.getD_cons_succ, ih _ _ (by omega)]
      have : n / 256 = n >>> 8 := by rw [Nat.shiftRight_eq_div_pow]
      rw [this, Nat.testBit_shiftRight]
      congr 1; omega

theorem bitNumber_testBit (l : List Bool) (i : Nat) : (bitNumber l).testBit i = l.getD i false := by
  induction l generalizing i with
  | nil => simp [bitNumber]
  | cons b l ih =>
    simp only [bitNumber]
    cases i with
    | zero => cases b <;> simp [Nat.testBit_zero, Nat.add_mod]
    | succ i =>
      rw [Nat.testBit_succ]
      have : (b.toNat + 2 * bitNumber l) / 2 = bitNumber l := by cases b <;> simp <;> omega
      rw [this, ih]; simp

theorem leBytes_length (k n : Nat) : (leBytes k n).length = k := by
  induction k generalizing n with
  | zero => rfl
  | succ k ih => simp [leBytes, ih]

theorem byte_of_toNat {b : Byte} {n : Nat} (h : b.toNat = n) : byte n = b := by
  subst h; exact BitVec.ofNat_toNat ..|>.trans (by simp)

theorem readRoute_ok {b : Byte} {r : RouteNo} (h : b.toNat = r.val) : readRoute b = .ok r := by
  unfold readRoute
  have : b.toNat < 8 := by omega
  rw [dif_pos this]; congr 1; exact Fin.ext h

theorem readRoute_bad {b : Byte} (h : 8 ≤ b.toNat) : readRoute b = .error .badRoute := by
  unfold readRoute; rw [dif_neg (by omega)]

theorem readSource_ok {b : Byte} {r : SourceNo} (h : b.toNat = r.val) : readSource b = .ok r := by
  unfold readSource
  have : b.toNat < 56 := by omega
  rw [dif_pos this]; congr 1; exact Fin.ext h

theorem readSource_bad {b : Byte} (h : 56 ≤ b.toNat) : readSource b = .error .badSource := by
  unfold readSource; rw [dif_neg (by omega)]

theorem readOutput_ok {b : Byte} {r : ActionNo} (h : b.toNat = r.val) : readOutput b = .ok r := by
  unfold readOutput
  have : b.toNat < 16 := by omega
  rw [dif_pos this]; congr 1; exact Fin.ext h

theorem readOutput_bad {b : Byte} (h : 16 ≤ b.toNat) : readOutput b = .error .badValue := by
  unfold readOutput; rw [dif_neg (by omega)]

theorem leNumber_six (b0 b1 b2 b3 b4 b5 : Byte) :
    BitVec.ofNat 48 (leNumber [b0, b1, b2, b3, b4, b5]) = b5 ++ b4 ++ b3 ++ b2 ++ b1 ++ b0 := by
  apply BitVec.eq_of_toNat_eq
  simp only [leNumber, BitVec.toNat_ofNat, BitVec.toNat_append]
  have := b0.isLt
  have := b1.isLt
  have := b2.isLt
  have := b3.isLt
  have := b4.isLt
  have := b5.isLt
  simp only [Nat.shiftLeft_eq]
  have o : ∀ a b : Nat, b < 2 ^ 8 → a * 2 ^ 8 ||| b = a * 256 + b := by
    intro a b hb
    rw [← Nat.shiftLeft_eq, ← Nat.shiftLeft_add_eq_or_of_lt hb, Nat.shiftLeft_eq]
  rw [o _ _ (by assumption), o _ _ (by assumption), o _ _ (by assumption), o _ _ (by assumption), o _ _ (by assumption)]
  omega

theorem byte_toNat (n : Nat) (h : n < 256) : (byte n).toNat = n := by
  simp [byte]; omega

theorem readFlag_flagCode (b : Bool) : readFlag (flagCode b) = .ok b := by cases b <;> rfl

theorem readFlag_bad {b : Byte} (h : 1 < b.toNat) : readFlag b = .error .badValue := by
  unfold readFlag
  rw [if_neg, if_neg]
  · intro e; subst e; revert h; decide
  · intro e; subst e; revert h; decide

theorem readFlag_cases (b : Byte) :
    (∃ v, readFlag b = .ok v ∧ b = flagCode v) ∨ (1 < b.toNat ∧ readFlag b = .error .badValue) := by
  by_cases h : 1 < b.toNat
  · exact .inr ⟨h, readFlag_bad h⟩
  · have : b.toNat = 0 ∨ b.toNat = 1 := by omega
    rcases this with h | h
    · have : b = 0 := BitVec.eq_of_toNat_eq h
      subst this; exact .inl ⟨false, rfl, rfl⟩
    · have : b = 1 := BitVec.eq_of_toNat_eq h
      subst this; exact .inl ⟨true, rfl, rfl⟩

theorem readLineMode_modeCode (m : Mode) (h : m ≠ .on) :
    readLineMode (modeCode m) = .ok m := by cases m <;> first | rfl | exact absurd rfl h

theorem readLineMode_bad {b : Byte} (h : 5 < b.toNat) : readLineMode b = .error .badValue := by
  unfold readLineMode
  generalize b.toNat = n at h ⊢
  rcases n with _|_|_|_|_|_|_|n <;> first | rfl | (exfalso; omega)

theorem readLineMode_good {b : Byte} (h : ¬ 5 < b.toNat) : ∃ v, readLineMode b = .ok v := by
  unfold readLineMode
  generalize b.toNat = n at h ⊢
  rcases n with _|_|_|_|_|_|_|n <;> first | exact ⟨_, rfl⟩ | (exfalso; omega)

theorem readInternalMode_bad {b : Byte} (h : b.toNat ≠ 0 ∧ b.toNat ≠ 6) : readInternalMode b = .error .badValue := by
  unfold readInternalMode
  generalize b.toNat = n at h ⊢
  rcases n with _|_|_|_|_|_|_|n <;> first | rfl | (exfalso; omega)

theorem readInternalMode_good {b : Byte} (h : ¬(b.toNat ≠ 0 ∧ b.toNat ≠ 6)) : ∃ v, readInternalMode b = .ok v := by
  unfold readInternalMode
  generalize b.toNat = n at h ⊢
  rcases n with _|_|_|_|_|_|_|n <;> first | exact ⟨_, rfl⟩ | (exfalso; omega)

theorem readLineFilter_filterCode (f : FilterSetting) : readLineFilter (filterCode f) = .ok f := by cases f <;> rfl

theorem readLineFilter_bad {b : Byte} (h : 4 < b.toNat) : readLineFilter b = .error .badValue := by
  unfold readLineFilter
  generalize b.toNat = n at h ⊢
  rcases n with _|_|_|_|_|_|_|n <;> first | rfl | (exfalso; omega)

theorem readLineFilter_good {b : Byte} (h : ¬ 4 < b.toNat) : ∃ v, readLineFilter b = .ok v := by
  unfold readLineFilter
  generalize b.toNat = n at h ⊢
  rcases n with _|_|_|_|_|_|_|n <;> first | exact ⟨_, rfl⟩ | (exfalso; omega)

theorem readRouteOrNone_routeCode (r : Option RouteNo) : readRouteOrNone (routeCode r) = .ok r := by
  cases r with
  | none => rfl
  | some r => revert r; decide

theorem readRouteOrNone_bad {b : Byte} (h : 8 ≤ b.toNat ∧ b.toNat ≤ 254) : readRouteOrNone b = .error .badRoute := by
  unfold readRouteOrNone
  rw [if_neg, readRoute_bad h.1]; rfl
  intro e; subst e; revert h; decide

theorem readRouteOrNone_good {b : Byte} (h : ¬(8 ≤ b.toNat ∧ b.toNat ≤ 254)) : ∃ v, readRouteOrNone b = .ok v := by
  unfold readRouteOrNone
  by_cases e : b = 0xFF
  · rw [if_pos e]; exact ⟨_, rfl⟩
  · rw [if_neg e]
    have : b.toNat < 8 := by
      have := b.isLt
      have h2 : b.toNat ≠ 255 := fun h => e (BitVec.eq_of_toNat_eq h)
      omega
    unfold readRoute; rw [dif_pos this]; exact ⟨_, rfl⟩

theorem readRange_ok {l h : Nat} {b : Byte} (x : l ≤ b.toNat ∧ b.toNat ≤ h) : readRange l h b = .ok b.toNat := by
  unfold readRange; rw [if_pos x]

theorem readRange_bad {l h : Nat} {b : Byte} (x : ¬(l ≤ b.toNat ∧ b.toNat ≤ h)) : readRange l h b = .error .badValue := by
  unfold readRange; rw [if_neg x]

theorem readFlag_good {b : Byte} (h : ¬1 < b.toNat) : ∃ v, readFlag b = .ok v := by
  rcases readFlag_cases b with ⟨v, hv, _⟩ | h'
  · exact ⟨v, hv⟩
  · exact absurd h'.1 h

theorem readPolicy_policyCode (q : Policy) : readPolicy (policyCode q) = .ok q := by cases q <;> rfl

theorem readPolicy_bad {b : Byte} (h : 1 < b.toNat) : readPolicy b = .error .badValue := by
  unfold readPolicy; rw [readFlag_bad h]; rfl

theorem readPolicy_good {b : Byte} (h : ¬1 < b.toNat) : ∃ v, readPolicy b = .ok v := by
  rcases readFlag_cases b with ⟨v, hv, _⟩ | h'
  · unfold readPolicy; rw [hv]; exact ⟨_, rfl⟩
  · exact absurd h'.1 h

theorem Result.ok_bind {α β : Type} (a : α) (f : α → Except Result β) : (Except.ok a >>= f) = f a := rfl

theorem Result.error_bind {α β : Type} (a : Result) (f : α → Except Result β) :
    ((Except.error a : Except Result α) >>= f) = .error a := rfl

theorem readTrigger_actionFired {b : Byte} (h : b.toNat = 53) : readTrigger b = .error .badTrigger := by
  have : b = 53 := BitVec.eq_of_toNat_eq h
  subst this; rfl

theorem readTrigger_bad {b : Byte} (h : 56 ≤ b.toNat ∧ b.toNat ≤ 254) : readTrigger b = .error .badSource := by
  unfold readTrigger
  rw [if_neg, if_neg, readSource_bad h.1]; rfl
  · intro e; subst e; revert h; decide
  · intro e; subst e; revert h; decide

theorem readTrigger_good {b : Byte} (h1 : ¬ b.toNat = 53) (h2 : ¬(56 ≤ b.toNat ∧ b.toNat ≤ 254)) :
    ∃ v, readTrigger b = .ok v ∧ (v = none ↔ b.toNat = 255) := by
  unfold readTrigger
  by_cases h : b = 0xFF
  · subst h; exact ⟨none, rfl, by decide⟩
  · rw [if_neg h, if_neg]
    · have h3 : b.toNat ≠ 255 := fun e => h (BitVec.eq_of_toNat_eq e)
      have h4 := b.isLt
      refine ⟨some ⟨b.toNat, by omega⟩, ?_, by simp [h3]⟩
      rw [readSource_ok (r := ⟨b.toNat, by omega⟩) rfl]; rfl
    · intro e; subst e; exact h1 (by decide)

theorem readTrigger_triggerCode (t : Option SourceNo) (h : t ≠ some 53) : readTrigger (triggerCode t) = .ok t := by
  revert h; cases t with
  | none => intro _; rfl
  | some i => revert i; decide

theorem readActionKind_bad (t : Option SourceNo) {b : Byte} (h : 2 < b.toNat) : readActionKind t b = .error .badValue := by
  unfold readActionKind
  generalize b.toNat = n at h ⊢
  rcases n with _|_|_|n <;> first | rfl | (exfalso; omega)

theorem readActionKind_manualTriggered {t : Option SourceNo} {b : Byte} (h : b.toNat = 2) (ht : t ≠ none) :
    readActionKind t b = .error .badTrigger := by
  unfold readActionKind
  simp only [h, ht, if_false]

theorem readActionKind_good {t : Option SourceNo} {b : Byte} (h : b.toNat < 2 ∨ b.toNat = 2 ∧ t = none) :
    ∃ v, readActionKind t b = .ok v := by
  unfold readActionKind
  generalize b.toNat = n at h ⊢
  rcases n with _|_|_|n
  · exact ⟨_, rfl⟩
  · exact ⟨_, rfl⟩
  · rcases h with h | h
    · omega
    · simp [h.2]
  · exfalso; omega

theorem readActionKind_actionKindCode {t : Option SourceNo} {k : ActionKind} (h : k = .manual → t = none) :
    readActionKind t (actionKindCode k) = .ok k := by
  cases k <;> first | rfl | (simp [readActionKind, actionKindCode, h])

theorem readShape_shapeCode (s : Shape) : readShape (shapeCode s) = .ok s := by cases s <;> rfl

theorem readShape_bad {b : Byte} (h : 1 < b.toNat) :
    readShape b = .error .badValue := by unfold readShape; rw [readFlag_bad h]; rfl

theorem readShape_good {b : Byte} (h : ¬1 < b.toNat) : ∃ v, readShape b = .ok v := by
  obtain ⟨v, e⟩ := readFlag_good h; unfold readShape; rw [e]; exact ⟨_, rfl⟩

theorem readWidth_widthCode (s : PulseWidth) : readWidth (widthCode s) = .ok s := by cases s <;> rfl

theorem readWidth_bad {b : Byte} (h : 3 < b.toNat) : readWidth b = .error .badValue := by
  unfold readWidth
  generalize b.toNat = n at h ⊢
  rcases n with _|_|_|_|n <;> first | rfl | (exfalso; omega)

theorem readWidth_good {b : Byte} (h : ¬3 < b.toNat) : ∃ v, readWidth b = .ok v := by
  unfold readWidth
  generalize b.toNat = n at h ⊢
  rcases n with _|_|_|_|n <;> first | exact ⟨_, rfl⟩ | (exfalso; omega)

theorem leBytes_two_eq (n : Nat) (hn : n < 65536) (c0 c1 : Byte) : leBytes 2 n = [c0, c1] ↔ n = c0.toNat + 256 * c1.toNat := by
  simp only [leBytes, byte, List.cons.injEq, and_true]
  constructor
  · rintro ⟨h1, h2⟩
    have := congrArg BitVec.toNat h1
    have h3 := congrArg BitVec.toNat h2
    simp at this h3
    omega
  · intro h
    have := c0.isLt
    have := c1.isLt
    refine ⟨BitVec.eq_of_toNat_eq ?_, BitVec.eq_of_toNat_eq ?_⟩ <;> simp <;> omega

theorem frameTypeOf_isNone (t : Byte) : (frameTypeOf t).isNone = true ↔ ¬ (t = 0x01 ∨ t = 0x02 ∨ t = 0x03) := by
  unfold frameTypeOf
  split
  · simp_all
  · split
    · simp_all
    · split
      · simp_all
      · simp_all

/-- One bit step on a register and the bits still to come, held in `x` from its top down. -/
theorem crcBits_succ_xor {w : Nat} (poly r x : BitVec w) (n : Nat) :
    crcBits poly (n + 1) (r ^^^ x) =
      crcBits poly n ((if r.msb = x.msb then r <<< 1 else (r <<< 1) ^^^ poly) ^^^ (x <<< 1)) := by
  rw [crcBits]
  congr 1
  rw [BitVec.msb_xor]
  by_cases h : r.msb = x.msb
  · simp [h, BitVec.shiftLeft_xor_distrib]
  · have hx : (r.msb ^^ x.msb) = true := by revert h; cases r.msb <;> cases x.msb <;> simp
    simp only [h, hx, if_true, if_false, BitVec.shiftLeft_xor_distrib, BitVec.xor_assoc, BitVec.xor_comm poly]

end Sys2Proof.Machine
end

