-- ==== Sys2Proof/Laws/Requests.lean ====
section
/-! SUPPORT. How a request is taken and answered, said once: under `Takes`, a request acts on the part with its oldest accepted
request gone; the rest of the part stands as it did. -/

namespace Sys2Proof.Machine

theorem taken_of_running {s : State} (h : s.running) (f : State → State) : taken s f = .next (f s) := by
  simp only [State.running] at h
  simp [taken, h]

theorem taken_of_hardReset {s : State} (h : ¬s.running) (f : State → State) : taken s f = .next s := by
  have : s.hardReset.isSome = true := by
    cases e : s.hardReset with
    | none => exact absurd e h
    | some c => rfl
  simp [taken, this]

theorem takeRequest_of_takes {p : Port} {code : Byte} {rest : List Byte} {s : State} (h : Takes p code rest s) :
    takeRequest p code rest s = some (s.afterTake p) := by
  obtain ⟨_, ⟨q, qs, h1, h2, h3⟩ | ⟨h1, h2, h3⟩⟩ := h
  · simp only [takeRequest, h1, h2, h3, ne_eq, not_false_eq_true, and_self, if_true]
    rfl
  · simp only [takeRequest, h1, h2, Config.backlogPlaces, h3, and_self, if_true]
    congr 1
    symm
    apply State.updPort_id
    have : (s.port p).accepted.drop 1 = (s.port p).accepted := by rw [h1]; rfl
    simp only [this]

/-- A request with a tag acts on the part without its oldest accepted request. -/
theorem taken_request_tag {p : Port} {code tag : Byte} {fields : List Byte} {s : State} (h : Takes p code (tag :: fields) s)
    (act : Byte → List Byte → State → State) :
    taken s (request p code (tag :: fields) act) = .next (act tag fields (s.afterTake p)) := by
  rw [taken_of_running h.1]
  simp only [request, takeRequest_of_takes h]

/-- A request of its code byte alone has BAD_LENGTH, with 0 for the missing tag (R176). -/
theorem taken_request_bare {p : Port} {code : Byte} {s : State} (h : Takes p code [] s)
    (act : Byte → List Byte → State → State) :
    taken s (request p code [] act) = .next (s.answered p [code + 0x80, 0, 0x02]) := by
  rw [taken_of_running h.1]
  simp only [request, takeRequest_of_takes h]
  rfl

theorem refuse_afterTake (p : Port) (code tag : Byte) (r : Result) (s : State) :
    refuse p code tag r (s.afterTake p) = s.answered p [code + 0x80, tag, r.code] := rfl

theorem answerWith_afterTake (p : Port) (code tag : Byte) (r : Result) (fields : List Byte) (s : State) :
    answerWith p code tag r fields (s.afterTake p) = s.answered p ([code + 0x80, tag, r.code] ++ fields) := rfl

/-! ## What taking leaves alone -/

@[simp] theorem State.route_afterTake (p : Port) (r : RouteNo) (s : State) : (s.afterTake p).route r = s.route r := rfl

@[simp] theorem State.source_afterTake (p : Port) (i : SourceNo) (s : State) : (s.afterTake p).source i = s.source i := rfl

@[simp] theorem State.line_afterTake (p : Port) (i : LineNo) (s : State) : (s.afterTake p).line i = s.line i := rfl

@[simp] theorem State.action_afterTake (p : Port) (n : ActionNo) (s : State) : (s.afterTake p).action n = s.action n := rfl

@[simp] theorem State.store_afterTake (p : Port) (s : State) : (s.afterTake p).store = s.store := rfl

@[simp] theorem State.history_afterTake (p : Port) (s : State) : (s.afterTake p).history = s.history := rfl

theorem State.port_afterTake (p q : Port) (s : State) :
    { (s.afterTake p).port q with accepted := (s.port q).accepted } = s.port q := by
  cases p <;> cases q <;> rfl

@[simp] theorem State.session_afterTake (p q : Port) (s : State) : ((s.afterTake p).port q).session = (s.port q).session := by
  cases p <;> cases q <;> rfl

/-! ## A reply commutes with what acts on the rest of the part -/

theorem State.raise_withReply (i : SourceNo) (d : Half) (p : Port) (m : List Byte) (s : State) :
    (s.withReply p m).raise i d = (s.raise i d).withReply p m := by
  unfold State.raise
  rw [show ((s.withReply p m).source i) = s.source i from rfl]
  split <;> rfl

theorem fire_withReply (n : ActionNo) (c : FireCause) (p : Port) (m : List Byte) (s : State) :
    fire n c (s.withReply p m) = (fire n c s).withReply p m := by
  unfold fire
  rw [← State.raise_withReply]
  rfl

theorem State.closeAll_withReply (out : CloseOutcome) (time : Time) (xs : List Rec) (p : Port) (m : List Byte) (s : State) :
    (s.withReply p m).closeAll out time xs = (s.closeAll out time xs).withReply p m := by
  unfold State.closeAll
  have : xs.foldl (State.closeRecord out time) (s.withReply p m) =
      (xs.foldl (State.closeRecord out time) s).withReply p m := by
    induction xs generalizing s with
    | nil => rfl
    | cons x xs ih => exact ih (s.closeRecord out time x)
  rw [this]
  rfl

end Sys2Proof.Machine
end

