-- ==== Sys2Proof/Laws/Session.lean ====
section
/-! SUPPORT. The end of a session: batches returned, failover route by route, the conditions raised; changes of owner; the end of a grace. -/

namespace Sys2Proof.Machine

theorem Rec.returned_returned (x : Rec) : x.returned.returned = x.returned := by
  unfold Rec.returned; cases h : x.state <;> simp [h]

theorem returnBatches_route (p : Port) (s : State) (r : RouteNo) :
    (returnBatches p s).route r = if (s.route r).owner = some p then (s.route r).returnBatch else s.route r := by
  simp only [returnBatches, State.route, Table.getElem_map]
  rfl

theorem failOver_keeps (o : Port) (s : State) (r : RouteNo) :
   (failOver o s r).held = s.held ∧ (failOver o s r).sources = s.sources ∧ (failOver o s r).lines = s.lines ∧
   (failOver o s r).store = s.store ∧ (failOver o s r).history = s.history ∧ (failOver o s r).actions = s.actions ∧
   (failOver o s r).timebase = s.timebase := ⟨rfl, rfl, rfl, rfl, rfl, rfl, rfl⟩

theorem failOver_foldl_keeps (o : Port) (l : List RouteNo) (s : State) :
   (l.foldl (failOver o) s).held = s.held ∧ (l.foldl (failOver o) s).sources = s.sources ∧ (l.foldl (failOver o) s).lines = s.lines ∧
   (l.foldl (failOver o) s).store = s.store ∧ (l.foldl (failOver o) s).history = s.history ∧ (l.foldl (failOver o) s).actions = s.actions ∧
   (l.foldl (failOver o) s).timebase = s.timebase := by
  induction l generalizing s with
  | nil => exact ⟨rfl, rfl, rfl, rfl, rfl, rfl, rfl⟩
  | cons x l ih => exact ih (failOver o s x)

theorem failOver_foldl_port_ne (o q : Port) (h : q ≠ o) (l : List RouteNo) (s : State) :
    (l.foldl (failOver o) s).port q = s.port q := by
  induction l generalizing s with
  | nil => rfl
  | cons x l ih =>
    rw [List.foldl_cons, ih]
    unfold failOver
    rw [State.port_updPort_ne _ _ h]; rfl

theorem failOver_foldl_route (o : Port) (l : List RouteNo) (s : State) (hl : l.Nodup) (r : RouteNo) :
   (l.foldl (failOver o) s).route r = if r ∈ l then Route.giveTo (some o) (s.route r) else s.route r := by
  induction l generalizing s with
  | nil => simp
  | cons x l ih =>
    rw [List.nodup_cons] at hl
    rw [List.foldl_cons, ih _ hl.2]
    have hx : (failOver o s x).route r = if r = x then Route.giveTo (some o) (s.route x) else s.route r := by
      unfold failOver
      rw [State.route_updPort, State.route_updRoute]
    rw [hx]
    by_cases e : r = x
    · subst e; simp [hl.1]
    · simp [e]

theorem failOver_foldl_notice (o : Port) (l : List RouteNo) (s : State) (r : RouteNo) :
   ((l.foldl (failOver o) s).port o).routeNotices[r.val] = if r ∈ l then .gained else (s.port o).routeNotices[r.val] := by
  induction l generalizing s with
  | nil => simp
  | cons x l ih =>
    rw [List.foldl_cons, ih]
    have hx : ((failOver o s x).port o).routeNotices[r.val] = if r = x then .gained else (s.port o).routeNotices[r.val] := by
      have : (failOver o s x).port o = { s.port o with routeNotices := (s.port o).routeNotices.set x.val .gained } := by
        unfold failOver
        rw [State.port_updPort_same]; rfl
      simp only [this, Vector.getElem_set]
      by_cases e : r = x
      · subst e; simp
      · have : x.val ≠ r.val := fun h => e (Fin.ext h.symm)
        simp [e, this]
    rw [hx]
    by_cases e : r = x
    · subst e; simp
    · simp [e]

theorem failOver_foldl_rest (o : Port) (l : List RouteNo) (s : State) (v) :
   { (l.foldl (failOver o) s).port o with routeNotices := v } = { s.port o with routeNotices := v } := by
  induction l generalizing s with
  | nil => rfl
  | cons x l ih =>
    rw [List.foldl_cons, ih]
    have : (failOver o s x).port o = { s.port o with routeNotices := (s.port o).routeNotices.set x.val .gained } := by
        unfold failOver
        rw [State.port_updPort_same]; rfl
    rw [this]

theorem raise_foldl (l : List (SourceNo × Half)) (s : State) :
   l.foldl (fun u c => u.raise c.1 c.2) s = { s with held := s.held ++ l.flatMap fun c => if (s.source c.1).state = .off then []
      else [Held.occurrence
        { source := c.1, kind := .internal, detail := c.2, time := s.timebase,
          route := (s.source c.1).cfg.route, coalesce := true }] } := by
  induction l generalizing s with
  | nil => simp
  | cons x l ih =>
    rw [List.foldl_cons, ih]
    have : ∃ h, s.raise x.1 x.2 = { s with held := h } ∧ h = s.held ++ (if (s.source x.1).state = .off then []
      else [Held.occurrence
        { source := x.1, kind := .internal, detail := x.2, time := s.timebase,
          route := (s.source x.1).cfg.route, coalesce := true }]) := by
      unfold State.raise
      split
      · exact ⟨_, rfl, by simp⟩
      · exact ⟨_, rfl, rfl⟩
    obtain ⟨h, e1, e2⟩ := this
    rw [e1, e2]
    simp only [List.flatMap_cons, List.append_assoc]
    rfl

theorem failsOver_iff (p : Port) (f : PortState → PortState) (s : State) (r : RouteNo) :
   State.failsOver p (returnBatches p (s.updPort p f)) r = true ↔ ((s.route r).owner = some p ∧ (s.route r).cfg.failover = true ∧ (s.port (otherPort p)).session = .up) := by
  have h1 : (returnBatches p (s.updPort p f)).port (otherPort p) = s.port (otherPort p) := by
    show (s.updPort p f).port (otherPort p) = _
    cases p <;> rfl
  unfold State.failsOver
  rw [h1, returnBatches_route]
  simp only [State.route_updPort]
  by_cases h : (s.route r).owner = some p
  · simp [Route.returnBatch, h]
  · simp [h]

theorem Rec.returned_eq : Rec.returned = fun x : Rec => if x.state = .offered then { x with state := .pending, redelivered := true } else x := by
  funext x; unfold Rec.returned; cases h : x.state <;> simp

theorem Route.giveTo_eq (o : Option Port) : Route.giveTo o = fun t : Route =>
      { t with
        queue := t.queue.map fun x => if x.state = .offered then { x with state := .pending, redelivered := true } else x
        batch := none, timer := none, stalled := false, owner := o } := by
  funext t; unfold Route.giveTo Route.returnBatch; rw [Rec.returned_eq]

theorem Route.giveTo_state (o : Option Port) (t : Route) :
    byte (Route.giveTo o t).state.code = if t.queue = [] then 0x00 else 0x01 := by
  rw [Route.giveTo_eq]
  unfold Route.state
  simp only [Bool.false_eq_true, if_false]
  rw [if_neg]
  · rcases t with ⟨c, o, q, st, l, tc, ba, ti⟩
    cases q <;> simp <;> rfl
  · rw [List.any_map]
    simp only [List.any_eq_true, not_exists, not_and]
    intro x _
    simp only [Function.comp]
    split <;> simp_all

theorem PortState.hearGraceEnd_setBacklog (n : ActionNo) (P : PortState) (x : List Reply) :
    PortState.hearGraceEnd n { P with backlog := x } = { PortState.hearGraceEnd n P with backlog := x } := by
  unfold PortState.hearGraceEnd
  dsimp only
  split
  · rfl
  · split <;> rfl

theorem PortState.hearGraceEnd_backlog (n : ActionNo) (P : PortState) : (PortState.hearGraceEnd n P).backlog = P.backlog := by
  unfold PortState.hearGraceEnd
  split
  · rfl
  · split <;> rfl

theorem endGrace_withReply (n : ActionNo) (o : GraceOutcome) (e : Option Port) (p : Port) (m : List Byte) (u : State) :
    endGrace n o e (u.withReply p m) = (endGrace n o e u).withReply p m := by
  unfold endGrace State.withReply State.updAction State.updPort
  congr 1
  cases p <;> simp only [Ports.update, PortState.hearGraceEnd_setBacklog, PortState.hearGraceEnd_backlog]

/-! ## What a soft reset leaves: field by field, so that no proof unfolds the whole record to compare two fields -/

@[simp] theorem softReset_pending (s : State) : (softReset s).pending = s.pending := by unfold softReset; rfl

@[simp] theorem softReset_hardReset (s : State) : (softReset s).hardReset = s.hardReset := by unfold softReset; rfl

@[simp] theorem softReset_rate1 (s : State) : (softReset s).rate1 = s.rate1 := by unfold softReset; rfl

@[simp] theorem softReset_rate0 (s : State) : (softReset s).rate0 = s.rate0 := by unfold softReset; rfl

@[simp] theorem softReset_timebase (s : State) : (softReset s).timebase = s.timebase := by unfold softReset; rfl

@[simp] theorem softReset_micro (s : State) : (softReset s).micro = s.micro := by unfold softReset; rfl

@[simp] theorem softReset_seconds (s : State) : (softReset s).seconds = s.seconds := by unfold softReset; rfl

@[simp] theorem softReset_sampleTime (s : State) : (softReset s).sampleTime = s.sampleTime := by unfold softReset; rfl

@[simp] theorem softReset_arrivals (s : State) : (softReset s).arrivals = s.arrivals := by unfold softReset; rfl

@[simp] theorem softReset_held (s : State) : (softReset s).held = [] := by unfold softReset; rfl

@[simp] theorem softReset_store (s : State) : (softReset s).store = s.store.emptied := by unfold softReset; rfl

@[simp] theorem softReset_port (s : State) (q : Port) : (softReset s).port q = (s.port q).softReset := by
  cases q <;> (unfold softReset; rfl)

end Sys2Proof.Machine
end

