-- ==== Sys2Proof/WellFormed.lean ====
section
/-! DEFINITION. Which terms of `Instr` spell a command of the table: lengths that fit a frame, and a BAD_CODE whose code is
unknown. -/

namespace Sys2Proof

/-- A request whose bytes after the code are `rest` fits one DATA frame (R133, R137). -/
def Instr.requestFits (rest : List Byte) : Bool := rest.length + 1 ≤ Config.longestPayload

/-- A payload the receiver can gather (R137). -/
def Instr.payloadFits (payload : List Byte) : Bool := payload.length ≤ Config.longestPayload

/-- The command is well formed: its bytes can have come in one frame, and a BAD_CODE carries an unknown code. -/
def Instr.wellFormed : Instr → Bool
  | .frameHeaderReceived _ bytes => 1 ≤ bytes.length && bytes.length ≤ 7
  | .payloadBad _ _ bytes => 3 ≤ bytes.length && bytes.length ≤ Config.longestPayload + 2
  | .dataFrameReceived _ _ _ payload => payloadFits payload
  | .ackFrameReceived _ _ _ payload => payloadFits payload
  | .announceFrameReceived _ _ _ payload => payloadFits payload
  | .badCode _ code rest => !requestCodes.contains code && requestFits rest
  | .openSession _ _ rest => requestFits rest
  | .close _ rest => requestFits rest
  | .ping _ rest => requestFits rest
  | .dormant _ rest => requestFits rest
  | .status _ rest => requestFits rest
  | .deviceReset _ rest => requestFits rest
  | .getTime _ rest => requestFits rest
  | .setTime _ rest => requestFits rest
  | .sourceSet _ rest => requestFits rest
  | .sourceGet _ rest => requestFits rest
  | .lineRead _ rest => requestFits rest
  | .routeSet _ rest => requestFits rest
  | .routeGet _ rest => requestFits rest
  | .claimRoute _ rest => requestFits rest
  | .releaseRoute _ rest => requestFits rest
  | .resumeRoute _ rest => requestFits rest
  | .serviceDone _ rest => requestFits rest
  | .actionSet _ rest => requestFits rest
  | .actionGet _ rest => requestFits rest
  | .cancelAction _ rest => requestFits rest
  | .setOutput _ rest => requestFits rest
  | .clearOutput _ rest => requestFits rest
  | .historyRead _ rest => requestFits rest
  | .hardReset _ => true
  | .resetRelease _ _ => true
  | .sampleInstant _ => true
  | .acceptedLevelChange _ => true
  | .settleReport _ => true
  | .holdoffExpiry _ => true
  | .serviceTimerExpiry _ => true
  | .formBatch _ => true
  | .reoffer _ => true
  | .placeReply _ => true
  | .routeLost _ => true
  | .routeGained _ => true
  | .actionPending _ => true
  | .actionEnded _ => true
  | .graceExpiry _ => true
  | .pulseExpiry _ => true
  | .interByteGap _ => true
  | .framingError _ => true
  | .ackDelayExpiry _ => true
  | .transmitAckFrame _ => true
  | .transmitDataFrame _ => true
  | .frameTransmitEnd _ => true
  | .retransmitTimeout _ => true
  | .linkBreak _ => true
  | .breakLineMark _ => true
  | .announce _ => true
  | .silenceExpiry _ => true
  | .deviceResetTimeout _ => true
  | .syncByte _ => true
  | .skipComplete _ => true

end Sys2Proof
end

