-- ==== Sys2Proof/Tests/Slice0.lean ====
section
/-! SUPPORT. The tests: what WellFormed refuses, one step on a small state for commands whose bytes the spec writes out, and for
every statement with hypotheses a state that meets them (`witness_<statement>`). -/

namespace Sys2Proof.Tests

open Sys2Proof.Machine

/-! ## Small states -/

/-- A session that is UP, with room for four frames. -/
def opened (P : PortState) : PortState :=
  { P with session := .up, params := { maxPayload := 128, window := 4, silenceLimit := 1, retransmit := 5 } }

/-- Both ports UP. -/
def bothUp : State := (State.reset.updPort .A opened).updPort .B opened

/-- Port A changed, both ports UP. -/
def portA (f : PortState → PortState) : State := bothUp.updPort .A f

/-- A PENDING record of source 3 on route 1. -/
def pendingRec (q : Nat) : Rec :=
  { seq := BitVec.ofNat 32 q, source := 3, kind := .rise, count := 2, detail := 0, first := 5, last := 6, route := 1,
    state := .pending, redelivered := false }

/-- An OFFERED record. -/
def offeredRec (q : Nat) : Rec := { pendingRec q with state := .offered }

/-- A batch of one record. -/
def oneBatch (phase : OfferPhase) : Batch :=
  { tag := 9, n := 1, snapshot := 3, retriesLimit := 2, attempts := 1, phase := phase, frame := 4 }

/-- Route 1 owned by Port A, with this queue and batch. -/
def routeOne (queue : List Rec) (batch : Option Batch) : State :=
  bothUp.updRoute 1 fun t => { t with owner := some .A, queue := queue, batch := batch, lost := 7, tagCounter := 9 }

/-- Line 0 with this filter and raw level, and its source with this mode and state. -/
def lineZero (mode : Mode) (state : SourceState) (filter : LineFilter) (raw : Bool) : State :=
  (State.reset.updLine 0 fun _ => { raw := raw, filter := filter }).updSource 0 fun t =>
    { cfg := { t.cfg with mode := mode, filter := .none, holdoff := 0 }, state := state }

/-- Action 4 in this state, triggered by source 40 where it is not MANUAL. -/
def actionFour (kind : ActionKind) (state : ActionState) : State :=
  bothUp.updAction 4 fun a =>
    { a with cfg := { a.cfg with trigger := if kind = .manual then none else some 40, kind := kind }, state := state }

/-- A frame of the send window. -/
def slot (seq : Byte) (role : Role) (how : Sent) : Slot := { seq := seq, message := [0x83, 1, 0], role := role, sent := how }

/-- An occurrence of source 3 on route 1. -/
def riseOnOne (coalesce : Bool) : Occurrence :=
  { source := 3, kind := .rise, detail := 0, time := 8, route := some 1, coalesce := coalesce }

/-- The state after a command; reset where it stops. -/
def after (c : Instr) (s : State) : State :=
  match exec c s with
  | .next t => t
  | .fault _ => State.reset
  | .refused _ => State.reset

/-- The last reply in a port's backlog. -/
def lastReply (p : Port) (s : State) : List Byte :=
  match (s.port p).backlog.getLast? with
  | some q => q.message
  | none => []

/-- A direct request: nothing accepted, the session UP, a place left. -/
theorem takes_direct {p : Port} {code : Byte} {rest : List Byte} {s : State}
    (h : s.running ∧ (s.port p).accepted = [] ∧ (s.port p).session = .up ∧ (s.port p).placesUsed < 8) : Takes p code rest s :=
  ⟨h.1, .inr h.2⟩

/-- An accepted request. -/
theorem takes_accepted {p : Port} {code : Byte} {rest : List Byte} {s : State} (q : Request) (qs : List Request)
    (h : s.running ∧ (s.port p).accepted = q :: qs ∧ q.payload = code :: rest ∧ (s.port p).session ≠ .closed) :
    Takes p code rest s :=
  ⟨h.1, .inl ⟨q, qs, h.2⟩⟩

/-! ## WellFormed: an ill-formed term for each check -/

theorem test_header_of_no_byte : (Instr.frameHeaderReceived .A []).wellFormed = false := by decide

theorem test_header_of_eight_bytes : (Instr.frameHeaderReceived .A (List.replicate 8 0)).wellFormed = false := by decide

theorem test_bad_payload_without_payload : (Instr.payloadBad .A .data [0, 0]).wellFormed = false := by decide

theorem test_bad_payload_too_long : (Instr.payloadBad .A .data (List.replicate 259 0)).wellFormed = false := by decide +kernel

theorem test_payloads_too_long :
    (Instr.dataFrameReceived .A 0 0 (List.replicate 257 0)).wellFormed = false ∧
      (Instr.ackFrameReceived .A 0 0 (List.replicate 257 0)).wellFormed = false ∧
      (Instr.announceFrameReceived .A 0 0 (List.replicate 257 0)).wellFormed = false := by decide +kernel

theorem test_request_too_long : (Instr.ping .A (List.replicate 256 0)).wellFormed = false := by decide +kernel

theorem test_bad_code_that_is_known : (Instr.badCode .A 0x03 [0]).wellFormed = false := by decide

theorem test_bad_code_too_long : (Instr.badCode .A 0x09 (List.replicate 256 0)).wellFormed = false := by decide +kernel

theorem test_well_formed_at_the_bounds :
    (Instr.frameHeaderReceived .A (List.replicate 7 0)).wellFormed = true ∧
      (Instr.payloadBad .A .data (List.replicate 258 0)).wellFormed = true ∧
      (Instr.ping .A (List.replicate 255 0)).wellFormed = true ∧ (Instr.badCode .A 0x09 []).wellFormed = true := by
  decide +kernel

theorem test_no_word_spells_a_command : decodeTableWord 16 0x1234 = none := rfl

/-! ## Witnesses: the machine -/

theorem witness_IdleStepIsOneMicrosecond :
    (State.reset.pending = [] ∧ State.reset.running ∧ State.reset.held = [] ∧ State.reset.micro < 999999) ∧
      (({ State.reset with micro := 999999 } : State).pending = [] ∧ ({ State.reset with micro := 999999 } : State).running) ∧
      ((State.heldInReset [] 0 .pin).pending = [] ∧ (State.heldInReset [] 0 .pin).hardReset ≠ none) := by
  decide

/-- A part in which every timer of the idle step runs. -/
def timersRunning : State :=
  ((({ State.reset with held := [.closeReport 1 3 0] }.updSource 3 fun t => { t with state := .holdoff 2 }).updRoute 1 fun t =>
    { t with timer := some 1 }).updAction 4 fun a => { a with state := .fired .request (some 7) }).updPort .A fun P =>
    { P with ackOwed := .waiting 3, retransmit := some 4, silence := some 5, announce := .waiting 6, resetTimer := some 8,
             breakReported := true }

theorem witness_IdleStepIsOneMicrosecond_timers :
    timersRunning.pending = [] ∧ timersRunning.running ∧ timersRunning.held ≠ [] := by
  decide

theorem witness_HardResetAndRelease :
    State.reset.running ∧ (State.heldInReset [] 0 .pin).hardReset = some .pin ∧
      (State.heldInReset [] 0 .powerOn).hardReset = some .powerOn := by
  decide

theorem witness_SettingsMoveByTheirCommandsAlone :
    (exec (.transmitAckFrame .A) bothUp = .next (after (.transmitAckFrame .A) bothUp)) ∧
      (exec (.setTime .A []) bothUp = .next (after (.setTime .A []) bothUp)) :=
  ⟨rfl, rfl⟩

/-! ## Witnesses: lines and occurrences -/

theorem witness_SampleInstantUpdatesEveryLine : bothUp.running ∧ bothUp.firstDue = none := by decide +kernel

/-- A line that settles and one that changes, each at its N: the lower comes first; one sample short of N, none is due. -/
theorem test_lowest_due_line_comes_first :
    let set (n : Nat) (f : FilterSetting) (s : State) : State :=
      (s.updLine 47 fun l => { l with filter := .unsettled true n }).updSource 47 fun t => { t with cfg := { t.cfg with filter := f } }
    let both := (set 512 .ms64 State.reset).updLine 2 fun l => { l with filter := .settled false 32 }
    (set 7 .ms1 State.reset).firstDue = none ∧ (set 8 .ms1 State.reset).firstDue = some 47 ∧
      (set 511 .ms64 State.reset).firstDue = none ∧ both.firstDue = some 2 := by
  decide +kernel

/-- A change due on line 0 of a source in this mode and state, which rises or falls. -/
def changeDue (mode : Mode) (state : SourceState) (new : Bool) : Prop :=
  let s := lineZero mode state (.settled (!new) 1) new
  s.running ∧ s.firstDue = some 0 ∧ (s.line 0).filter = .settled (!new) 1 ∧ (s.source 0).cfg.mode = mode ∧
    (s.source 0).state = state

theorem witness_AcceptedChangeReachesItsSource :
    changeDue .off .off true ∧ changeDue .rise .watch true ∧ changeDue .rise .watch false ∧ changeDue .fall .watch true ∧
      changeDue .fall .watch false ∧ changeDue .both .watch true ∧ changeDue .both .watch false := by
  unfold changeDue
  decide +kernel

theorem witness_AcceptedChangeReachesItsSource_level :
    changeDue .high .watch true ∧ changeDue .low .watch true ∧ changeDue .high (.raised (some 1)) false ∧
      changeDue .high (.raised none) true ∧ changeDue .low (.raised none) true ∧ changeDue .high (.holdoff 1) true ∧
      changeDue .high (.holdoff 1) false ∧ changeDue .high .off true := by
  unfold changeDue
  decide +kernel

theorem witness_SettleReportReachesItsSource :
    let s := lineZero .high .watch (.unsettled true 1) true
    let t := lineZero .rise .watch (.unsettled false 1) false
    (s.running ∧ s.firstDue = some 0 ∧ (s.line 0).filter = .unsettled true 1 ∧ (s.source 0).state = .watch) ∧
      (t.running ∧ t.firstDue = some 0 ∧ (t.line 0).filter = .unsettled false 1) := by
  decide +kernel

theorem witness_HoldoffExpiryRearms :
    let s := lineZero .high (.holdoff 1) (.settled true 0) true
    s.running ∧ (s.source 0).state = .holdoff 1 := by
  decide

theorem witness_ReportedConditionIsHeld :
    ((bothUp.source 50).state ≠ .off ∧ (bothUp.source 0).state = .off) ∧ bothUp.held = [] ∧
      timersRunning.held = .closeReport 1 3 0 :: [] ∧ (bothUp.raise 50 0).held ≠ [] ∧
      (handSome 1 timersRunning).held = [] := by
  decide +kernel

theorem witness_ActionsHearEveryOccurrence :
    let o : Occurrence := { riseOnOne false with source := 40 }
    let s := actionFour .immediate .idle
    let t := actionFour .graced .idle
    ((s.action 4).cfg.trigger = some o.source ∧ (s.action 4).state = .idle ∧ (s.action 4).cfg.kind = .immediate) ∧
      ((t.action 4).cfg.trigger = some o.source ∧ (t.action 4).state = .idle ∧ (t.action 4).cfg.kind = .graced) ∧
      (t.action 5).cfg.trigger ≠ some o.source ∧ ((actionFour .graced (.grace 1)).action 4).state ≠ .idle ∧
      (((actionFour .manual .idle).action 4).cfg.kind = .manual ∧ (s.action 4).cfg.kind ≠ .graced) := by
  decide

theorem witness_AnswerDecidesTheLevelSource :
    let o := riseOnOne false
    (4 : SourceNo) ≠ o.source ∧ o.route = some 1 ∧ (o.kind ≠ .active ∧ o.kind ≠ .rearm) ∧ ({ o with route := none } : Occurrence).route = none ∧
      (({ o with kind := .active } : Occurrence).route = some 1 ∧ ({ o with kind := .active } : Occurrence).kind = .active) ∧
      ({ o with kind := .rearm } : Occurrence).kind = .rearm := by
  decide

/-- Line 0 settled high, and its source HIGH with this holdoff, RAISED on record 5. -/
def raisedOnFive (holdoff : Nat) (level : Bool) : State :=
  (lineZero .high (.raised (some 5)) (.settled level 0) level).updSource 0 fun t => { t with cfg := { t.cfg with holdoff := holdoff } }

theorem witness_AnswerDecidesTheLevelSource_close :
    ((raisedOnFive 0 true).source 0).state ≠ .raised (some 6) ∧
      (((raisedOnFive 0 true).source 0).state = .raised (some 5) ∧ ((raisedOnFive 0 true).line 0).filter = .settled true 0 ∧
        ((raisedOnFive 0 true).source 0).cfg.mode = .high ∧ ((raisedOnFive 0 true).source 0).cfg.holdoff = 0) ∧
      (0 < ((raisedOnFive 255 true).source 0).cfg.holdoff ∧ ((raisedOnFive 255 true).source 0).state = .raised (some 5)) ∧
      ((raisedOnFive 0 false).line 0).filter = .settled false 0 := by
  decide

theorem witness_OccurrenceFoldsIntoTheNewest :
    let o := riseOnOne true
    let s := routeOne [pendingRec 1, pendingRec 2] none
    o.coalesce = true ∧ (s.route 1).queue = [pendingRec 1] ++ pendingRec 2 :: [] ∧ (pendingRec 2).state = .pending ∧
      (pendingRec 2).source = o.source ∧ ∀ y ∈ ([] : List Rec), ¬(y.state = .pending ∧ y.source = o.source) := by
  decide

/-- A part with no record left for a line source. -/
def emptyStore (s : State) (reserve : Nat) : State := { s with store := { s.store with freeGeneral := 0, freeReserve := reserve } }

theorem witness_OccurrenceIsLostWithoutARecord :
    let o := riseOnOne true
    let s := emptyStore bothUp 8
    let t := emptyStore bothUp 0
    (NothingToFold o 1 s ∧ ¬RecordAvailable o s) ∧
      (NothingToFold { o with source := 48 } 1 t ∧ ¬RecordAvailable { o with source := 48 } t) := by
  decide

/-- Route 1 with this policy, full at depth 1. -/
def fullRoute (policy : Policy) (x : Rec) : State :=
  (routeOne [x] none).updRoute 1 fun t => { t with cfg := { t.cfg with depth := 1, policy := policy } }

theorem witness_DropNewRefusesRoom :
    let o := riseOnOne false
    let s := fullRoute .dropNew (pendingRec 1)
    NothingToFold o 1 s ∧ RecordAvailable o s ∧ (s.route 1).cfg.depth ≤ (s.route 1).queue.length ∧
      (s.route 1).cfg.policy = .dropNew := by
  decide

theorem witness_DropOldWithAllOfferedRefusesRoom :
    let o := riseOnOne false
    let s := fullRoute .dropOld (offeredRec 1)
    NothingToFold o 1 s ∧ RecordAvailable o s ∧ (s.route 1).cfg.depth ≤ (s.route 1).queue.length ∧
      (s.route 1).cfg.policy = .dropOld ∧ ∀ x ∈ (s.route 1).queue, x.state = .offered := by
  decide

theorem witness_DropOldMakesRoom :
    let o := riseOnOne false
    let u := fullRoute .dropOld (pendingRec 1)
    let s : State := { u with store := { u.store with freeGeneral := 247 } }
    NothingToFold o 1 s ∧ RecordAvailable o s ∧
      (s.store.freeGeneral ≤ 248 ∧ s.store.freeReserve ≤ 8 ∧ (0 < s.store.freeGeneral → s.store.freeReserve = 8) ∧
        s.store.freeGeneral + s.store.freeReserve + s.queued = 256) ∧
      (s.route 1).queue = [] ++ pendingRec 1 :: [] ∧ (pendingRec 1).state = .pending ∧
      (s.route 1).cfg.depth ≤ (s.route 1).queue.length ∧ (s.route 1).cfg.policy = .dropOld := by
  decide

theorem witness_RecordIsCreated :
    let o := riseOnOne false
    let s : State := { bothUp with store := { bothUp.store with freeGeneral := 17 } }
    let t := emptyStore bothUp 1
    (NothingToFold o 1 s ∧ RecordAvailable o s ∧ (s.route 1).queue.length < (s.route 1).cfg.depth) ∧
      (NothingToFold { o with source := 48 } 1 t ∧ RecordAvailable { o with source := 48 } t ∧
        (t.route 1).queue.length < (t.route 1).cfg.depth) := by
  decide

theorem witness_LineCommandsKeepTheRest :
    let s := lineZero .high .watch (.unsettled true 1) true
    exec (.sampleInstant 0) bothUp = .next (after (.sampleInstant 0) bothUp) ∧
      exec (.settleReport 0) s = .next (after (.settleReport 0) s) ∧
      exec (.acceptedLevelChange 0) s = .next (after (.acceptedLevelChange 0) s) ∧
      exec (.holdoffExpiry 0) s = .next (after (.holdoffExpiry 0) s) :=
  ⟨rfl, rfl, rfl, rfl⟩

/-! ## Witnesses: service cycle and placing -/

theorem witness_ServiceTimerReoffersOrStalls :
    let s := (routeOne [offeredRec 1] (some (oneBatch .timing))).updRoute 1 fun t => { t with timer := some 1 }
    let b := oneBatch .timing
    let last : Batch := { b with attempts := 2 }
    let t := s.updRoute 1 fun t => { t with batch := some last }
    (s.running ∧ (s.route 1).batch = some b ∧ (s.route 1).timer = some 1 ∧ b.attempts < b.retriesLimit) ∧
      (t.running ∧ (t.route 1).batch = some last ∧ (t.route 1).timer = some 1 ∧ last.retriesLimit ≤ last.attempts) := by
  decide

theorem witness_SchedulerChoosesInOrder :
    let reply := portA fun P => { P with backlog := [{ message := [0x83, 1, 0], role := .plain }] }
    let leaving := portA fun P => { P with session := .enteringDormant }
    let notice := portA fun P => { P with routeNotices := P.routeNotices.set 1 .gained }
    let pending := portA fun P => { P with actionNotices := P.actionNotices.set 4 .pending }
    (reply.choice .A = some (.reply { message := [0x83, 1, 0], role := .plain } []) ∧ leaving.choice .A = none ∧
      State.reset.choice .A = none) ∧
      (notice.choice .A = some (.routeNotice 1 .gained) ∧ pending.choice .A = some (.actionNotice 4 .pending)) ∧
      (bothUp.choice .A = none ∧ (routeOne [pendingRec 1] none).choice .A = some (.newBatch 1) ∧
        (routeOne [offeredRec 1] (some (oneBatch .reofferDue))).choice .A = some (.reoffer 1)) := by
  decide

theorem witness_BatchesAreOffered :
    let s := routeOne [pendingRec 1] none
    let t := routeOne [offeredRec 1] (some (oneBatch .reofferDue))
    (s.running ∧ s.choice .A = some (.newBatch 1)) ∧
      (t.running ∧ t.choice .A = some (.reoffer 1) ∧ (t.route 1).batch = some (oneBatch .reofferDue)) := by
  decide

theorem witness_RepliesAndNoticesArePlaced :
    let reply := portA fun P => { P with backlog := [{ message := [0x83, 1, 0], role := .plain }] }
    let notice := fun k => portA fun P => { P with routeNotices := P.routeNotices.set 7 k }
    let pending := (actionFour .graced (.grace 1)).updPort .A fun P => { P with actionNotices := P.actionNotices.set 4 .pending }
    let ended := (bothUp.updAction 4 fun a => { a with graceEnd := some { outcome := .cancelled, endedBy := some .B } }).updPort .A
      fun P => { P with actionNotices := P.actionNotices.set 4 .ended }
    (reply.running ∧ reply.choice .A = some (.reply { message := [0x83, 1, 0], role := .plain } [])) ∧
      (notice .lost).choice .A = some (.routeNotice 7 .lost) ∧ (notice .gained).choice .A = some (.routeNotice 7 .gained) ∧
      (pending.choice .A = some (.actionNotice 4 .pending) ∧ (pending.action 4).state = .grace 1) ∧
      (ended.choice .A = some (.actionNotice 4 .ended) ∧
        (ended.action 4).graceEnd = some { outcome := .cancelled, endedBy := some .B }) := by
  decide

/-! ## Witnesses: actions and pins -/

theorem witness_GracesAndPulsesEnd :
    let P := opened (PortState.initial .powerOn)
    let told : PortState := { P with told := P.told.set 4 true }
    let flagged : PortState := { P with actionNotices := P.actionNotices.set 4 .pending }
    (told.told[4] = true ∧ (flagged.told[4] = false ∧ flagged.actionNotices[4] = .pending) ∧
      (P.told[4] = false ∧ P.actionNotices[4] ≠ .pending)) ∧
      ((actionFour .graced (.grace 1)).running ∧ ((actionFour .graced (.grace 1)).action 4).state = .grace 1) ∧
      ((actionFour .immediate (.fired .immediate (some 1))).action 4).state = .fired .immediate (some 1) := by
  decide

theorem witness_OutputPinFollowsTheAction :
    (State.heldInReset [] 0 .pin).hardReset ≠ none ∧ bothUp.running ∧
      ((actionFour .manual (.fired .request none)).action 4).state = .fired .request none ∧
      (bothUp.action 4).state = .idle ∧ ((actionFour .graced (.grace 1)).action 4).state = .grace 1 := by
  decide

theorem witness_WakeFollowsItsConditions :
    let asleep (P : PortState) : PortState := { P with session := .dormant }
    let byRoute := ((routeOne [pendingRec 1] none).updRoute 1 fun t => { t with cfg := { t.cfg with wake := true } }).updPort .A asleep
    let byNotice := bothUp.updPort .A fun P => asleep { P with actionNotices := P.actionNotices.set 15 .pending }
    byRoute.running ∧ byRoute.wakePin .A = .drivenLow ∧ byNotice.wakePin .A = .drivenLow ∧
      (bothUp.updPort .A asleep).wakePin .A = .highImpedance := by
  decide

/-! ## Witnesses: receiver -/

/-- Port A with its receiver in this phase. -/
def receiving (phase : Receiver) : State := portA fun P => { P with receiver := phase }

/-- The seven bytes of a header, with the right HCHK. -/
def headerOf (type seq info l0 l1 : Byte) : List Byte :=
  [0xB4, type, seq, info, l0, l1, crc8 [0xB4, type, seq, info, l0, l1]]

theorem witness_ReceiverPhasesEnd :
    bothUp.running ∧ (bothUp.port .A).receiver = .hunt ∧ (bothUp.port .A).breakReported = false ∧
      ((receiving (.skip 3)).port .A).receiver = .skip 3 ∧ ((receiving (.skip 3)).port .A).breakReported = false ∧
      ((receiving (.header [0xB4])).port .A).receiver = .header [0xB4] ∧
      ((receiving (.payload [0xB4, 0x01, 0, 0, 1, 0, 7] [])).port .A).receiver = .payload (0xB4 :: 0x01 :: [0, 0, 1, 0, 7]) [] := by
  decide

theorem witness_HeaderIsJudged :
    (bothUp.running ∧ (bothUp.port .A).breakReported = false ∧ (bothUp.port .A).receiver = .hunt ∧
        (receiving (.header [0xB4])).running ∧ ((receiving (.header [0xB4])).port .A).breakReported = false ∧
        ((receiving (.header [0xB4])).port .A).receiver = .header [0xB4]) ∧
      crc8 [0xB4, 0x02, 5, 0, 0, 0] ≠ 0 ∧ (0xB4 : Byte) ∉ ([0x02, 5, 0, 0, 0, 0] : List Byte) ∧
      ([0x02, 5, 0xB4, 0, 0, 0] : List Byte) = [0x02, 5] ++ 0xB4 :: [0, 0, 0] ∧ crc8 [0xB4, 0x02, 5, 0xB4, 0, 0] ≠ 0 ∧
      headerOf 0x01 0 0 0x01 0x01 = [0xB4] ++ [0x01, 0, 0, 0x01, 0x01, crc8 [0xB4, 0x01, 0, 0, 0x01, 0x01]] ∧
      256 < (0x01 : Byte).toNat + 256 * (0x01 : Byte).toNat ∧ (0 : Byte).toNat + 256 * (0x01 : Byte).toNat ≤ 256 ∧
      ¬((0x04 : Byte) = 0x01 ∨ (0x04 : Byte) = 0x02 ∨ (0x04 : Byte) = 0x03) := by
  decide +kernel

theorem witness_BadPayloadIsDiscarded :
    let s := receiving (.payload [0xB4, frameTypeCode .data, 0, 0, 1, 0, 7] [])
    (s.running ∧ (s.port .A).breakReported = false ∧
        (s.port .A).receiver = .payload [0xB4, frameTypeCode .data, 0, 0, 1, 0, 7] [] ∧
        ([5] : List Byte).length = (1 : Byte).toNat + 256 * (0 : Byte).toNat) ∧
      (bothUp.running ∧ (bothUp.port .A).breakReported = false ∧ (bothUp.port .A).receiver = .hunt) ∧ ([] : List Byte) ++ [5, 0, 0] = [5] ++ [0, 0] ∧
      (crc16 [5]).toNat ≠ (0 : Byte).toNat + 256 * (0 : Byte).toNat ∧
      (List.replicate 256 (0 : Byte)).length ≤ 256 := by
  decide +kernel

/-! ## Witnesses: frames from the agent -/

/-- A frame is complete on Port A within its session, or in CLOSED, with the line at mark. -/
def complete (t : FrameType) (seq info : Byte) (payload : List Byte) (s : State) : Prop :=
  s.running ∧ (s.port .A).breakReported = false ∧ (s.port .A).completes t seq info payload = true

theorem witness_DataFrameIsJudgedBySeq :
    let e := (bothUp.port .A).expected
    let full := portA fun P => { P with backlog := List.replicate 8 { message := [], role := .plain } }
    let gathered := receiving (.payload (headerOf 0x01 0 0 2 0) [0x03])
    ((bothUp.port .A).session ≠ .closed ∧ complete .data e 0 [] bothUp ∧ complete .data e 0 [0x03, 1] bothUp ∧
        (bothUp.port .A).placesUsed < 8) ∧
      (complete .data e 0 [0x03, 1] full ∧ 8 ≤ (full.port .A).placesUsed) ∧
      (complete .data (e - 1) 0 [] bothUp ∧ complete .data (e - 4) 0 [] bothUp ∧ complete .data (e + 1) 0 [] bothUp ∧
        complete .data (e + 3) 0 [] bothUp) ∧
      (complete .data (e + 4) 0 [] bothUp ∧ 4 ≤ (e + 4 - e).toNat ∧ (e + 251 - e).toNat ≤ 251) ∧
      complete .data 0 0 [0x03, 1] gathered := by
  unfold complete
  decide +kernel

theorem witness_DataFrameIsJudgedBySeq_open :
    let e := (bothUp.port .A).expected
    let duplicate := fun q => q = e - 1 ∨ q = e - 2 ∨ q = e - 3 ∨ q = e - 4
    (complete .data (e - 4) 0 (0x01 :: [7]) bothUp ∧ duplicate (e - 4)) ∧
      (complete .data (e - 5) 0 (0x01 :: [7]) bothUp ∧ ¬duplicate (e - 5)) ∧
      (complete .data e 0 (0x01 :: [7]) bothUp ∧ ¬duplicate e) := by
  unfold complete
  decide +kernel

theorem witness_ClosedPortHearsOpensAlone :
    (State.reset.port .A).session = .closed ∧ complete .data 0 0 [0x01, 7] State.reset ∧
      complete .data 0 0 [0x03, 7] State.reset ∧ complete .ack 0 0 [] State.reset ∧
      complete .announce 0 0 [0, 0, 0, 0, 0, 0, 0, 0] State.reset := by
  unfold complete
  decide +kernel

/-- Port A with these frames in its window. -/
def sending (window : List Slot) : State := portA fun P => { P with window := window, sendSeq := 7 }

theorem witness_AcknowledgementIsApplied :
    let closing := portA fun P => { P with window := [slot 6 .close .sent], closing := true }
    let refusing := portA fun P => { P with window := [slot 0 .refusedOpen .sent], refusing := true }
    let resetting := portA fun P => { P with window := [slot 6 .deviceReset .sent], resetPending := true }
    let two := sending [slot 5 .plain .sent, slot 6 (.notify 1 9) .sent]
    (∀ w ∈ ((sending [slot 5 .plain .sent]).port .A).window, w.seq ≠ 6) ∧
      ((two.port .A).window = [slot 5 .plain .sent] ++ slot 6 (.notify 1 9) .sent :: [] ∧
        ∀ x ∈ [slot 5 .plain .sent], x.seq ≠ 6) ∧
      ((slot 6 .plain .sent).role = .plain ∧ (slot 6 (.notify 1 9) .sent).role = .notify 1 9) ∧
      ((closing.port .A).window = [] ++ slot 6 .close .sent :: [] ∧ (closing.port .A).closing = true ∧
        (closing.port .A).session ≠ .closed) ∧
      ((refusing.port .A).window = [] ++ slot 0 .refusedOpen .sent :: [] ∧ (refusing.port .A).refusing = true) ∧
      ((resetting.port .A).window = [] ++ slot 6 .deviceReset .sent :: [] ∧ (resetting.port .A).resetPending = true) := by
  decide

theorem witness_AckAndAnnounceFramesAreTaken :
    let calls := fun (seq info : Byte) (s : State) => info &&& 0x7F ≠ 0 ∧ (s.port .A).window ≠ [] ∧
      ((applyAck .A seq (s.updPort .A PortState.heard)).port .A).window ≠ []
    let s := sending [slot 5 .plain .sent, slot 6 .plain .sent]
    let tired := s.updPort .A fun P => { P with attempts := 8 }
    (complete .ack 6 0 [] s ∧ ¬calls 6 0 s ∧ ¬calls 6 0x7F s) ∧
      (complete .ack 5 0x01 [] s ∧ calls 5 0x01 s ∧ ((applyAck .A 5 (s.updPort .A PortState.heard)).port .A).attempts < 8) ∧
      (((s.updPort .A fun P => { P with retransmit := some 1 }).port .A).expiryNow = .byTimer ∧
        ((s.updPort .A fun P => { P with expiryNow := .joined }).port .A).expiryNow = .joined) ∧
      (calls 4 0x40 tired ∧ 8 ≤ ((applyAck .A 4 (tired.updPort .A PortState.heard)).port .A).attempts) ∧
      complete .announce 0 0 [0, 0, 0, 0, 0, 0, 0, 0] bothUp := by
  unfold complete
  decide +kernel

/-! ## Witnesses: transmitter and link timers -/

theorem witness_AckFrameBegins :
    let waiting := portA fun P => { P with ackOwed := .waiting 1 }
    let due := portA fun P => { P with ackOwed := .due, session := .enteringDormant }
    let demanded := portA fun P => { P with ackDemand := true }
    (waiting.running ∧ (waiting.port .A).ackOwed = .waiting 1) ∧
      ((due.port .A).session = .enteringDormant ∧ (due.port .A).tx = none ∧ (due.port .A).ackOwed = .due) ∧
      ((demanded.port .A).session = .up ∧ (demanded.port .A).tx = none ∧ (demanded.port .A).ackDemand = true) := by
  decide

theorem witness_DataFrameBegins :
    let w := slot 5 .plain .sent
    let s := sending [w, slot 6 .plain .waiting]
    let inRound := s.updPort .A fun P => { P with round := [5, 6] }
    let next := s.updPort .A fun P => { P with roundsDue := 1 }
    (s.running ∧ (s.port .A).session = .up ∧ (s.port .A).tx = none ∧ (s.port .A).ackDemand = false ∧
        (s.port .A).ackOwed ≠ .due) ∧
      ((inRound.port .A).window = [] ++ w :: [slot 6 .plain .waiting] ∧ (inRound.port .A).round = w.seq :: [6]) ∧
      ((next.port .A).window = w :: [slot 6 .plain .waiting] ∧ (next.port .A).round = [] ∧ (next.port .A).roundsDue = 0 + 1) ∧
      ((s.port .A).window = [w] ++ slot 6 .plain .waiting :: [] ∧ (∀ x ∈ [w], x.sent ≠ .waiting) ∧
        (s.port .A).round = [] ∧ (s.port .A).roundsDue = 0) := by
  decide

/-- Port A with a frame on its transmitter. -/
def transmitting (t : FrameType) (seq : Byte) (live : Bool) (s : State) : State :=
  s.updPort .A fun P => { P with tx := some { live := live, frame := { ftype := t, seq := seq, info := 0, payload := [] } } }

theorem witness_FrameEndStartsItsTimers :
    let x : Transmission := { live := true, frame := { ftype := .data, seq := 5, info := 0, payload := [] } }
    let s := transmitting .data 5 true (sending [slot 5 .deviceReset .sending, slot 6 .plain .waiting])
    ((transmitting .ack 0 true bothUp).running ∧
        (transmitting .ack 0 true bothUp).port .A =
          { bothUp.port .A with tx := some { live := true, frame := { ftype := .ack, seq := 0, info := 0, payload := [] } } } ∧
        FrameType.ack ≠ FrameType.data) ∧
      (s.port .A).tx = some x ∧ x.live = true ∧ x.frame.ftype = .data ∧
      (s.port .A).window = [] ++ slot 5 .deviceReset .sending :: [slot 6 .plain .waiting] ∧
      (slot 5 .deviceReset .sending).seq = x.frame.seq ∧ (∀ y ∈ [] ++ [slot 6 .plain .waiting], y.seq ≠ 5) := by
  decide

/-- While an ACK frame is on the transmitter a DATA frame that is ready waits; after its end it begins (R147). -/
theorem test_transmitter_sends_one_frame :
    let s := transmitting .ack 0 true (sending [slot 5 .plain .waiting])
    (after (.transmitDataFrame .A) s).port .A = s.port .A ∧
      ((after (.transmitDataFrame .A) (after (.frameTransmitEnd .A) s)).port .A).tx.map (fun x => x.frame.seq) = some 5 := by
  decide +kernel

theorem witness_LinkTimersMakeRoundsAndEndSessions :
    let s := portA fun P => { P with window := [slot 5 .plain .sent], retransmit := some 1, silence := some 1, attempts := 7 }
    let tired := s.updPort .A fun P => { P with attempts := 8 }
    let closing := tired.updPort .A fun P => { P with closing := true }
    let met := fun e => s.updPort .A fun P => { P with expiryNow := e, heardNow := true }
    ((s.port .A).expiryNow = .byTimer ∧ ((met .joined).port .A).expiryNow = .joined ∧
        ((met .precluded).port .A).expiryNow = .precluded ∧ (s.port .A).heardNow = false ∧
        ((met .joined).port .A).heardNow = true ∧ ((met .joined).port .A).silence = some 1) ∧
      (s.running ∧ (s.port .A).retransmit = some 1 ∧ (s.port .A).window ≠ [] ∧ (s.port .A).attempts < 8) ∧
      (8 ≤ (tired.port .A).attempts ∧ (tired.port .A).refusing = false ∧ (tired.port .A).closing = false) ∧
      (8 ≤ (closing.port .A).attempts ∧ (closing.port .A).closing = true) ∧ (s.port .A).silence = some 1 := by
  decide

/-- R153: with the acknowledgement first the expiry does not happen, until time passes; with the expiry first its round is made, and
the acknowledgement returns the attempt count to 0. -/
theorem test_acknowledgement_meets_expiry :
    let s := (sending [slot 5 .plain .sent, slot 6 .plain .sent]).updPort .A fun P => { P with retransmit := some 1, attempts := 3 }
    let acked := after (.ackFrameReceived .A 5 0 []) s
    let expired := after (.retransmitTimeout .A) s
    let seen := fun t : State => ((t.port .A).attempts, (t.port .A).round, (t.port .A).window.map Slot.seq)
    (after (.retransmitTimeout .A) acked).port .A = acked.port .A ∧ seen acked = (0, [], [6]) ∧
      seen (after (.retransmitTimeout .A) acked.tick) = (1, [6], [6]) ∧
      seen expired = (4, [5, 6], [5, 6]) ∧ seen (after (.ackFrameReceived .A 5 0 []) expired) = (0, [6], [6]) := by
  decide +kernel

/-- R153: an ACK frame with report flags that leaves frames, and an expiry taken with it, make two rounds in either order, also where
the new oldest frame has not been sent to its end. -/
theorem test_flagged_acknowledgement_meets_expiry :
    let s := fun how => (sending [slot 5 .plain .sent, slot 6 .plain how]).updPort .A fun P => { P with retransmit := some 1 }
    let flagged := after (.ackFrameReceived .A 5 0x01 [])
    let seen := fun t : State => ((t.port .A).attempts, (t.port .A).round, (t.port .A).roundsDue)
    seen (flagged (s .sent)) = (1, [6], 0) ∧ seen (after (.retransmitTimeout .A) (flagged (s .sent))) = (2, [6], 1) ∧
      seen (after (.retransmitTimeout .A) (flagged (s .waiting))) = (2, [6], 1) ∧
      seen (flagged (after (.retransmitTimeout .A) (s .sent))) = (1, [6], 1) := by
  decide +kernel

/-- R167: with the frame first the silence expiry does not happen, until time passes. -/
theorem test_frame_meets_silence_expiry :
    let s := portA fun P => { P with silence := some 1 }
    let heard := after (.ackFrameReceived .A 9 0 []) s
    ((after (.silenceExpiry .A) heard).port .A).session = .up ∧
      ((after (.silenceExpiry .A) heard.tick).port .A).session = .closed ∧
      ((after (.silenceExpiry .A) s).port .A).session = .closed := by
  decide +kernel

theorem witness_LinkBreakAndItsEnd :
    let broken := portA fun P => { P with breakReported := true }
    let refused := portA fun P => { P with refusing := true }
    (broken.running ∧ (broken.port .A).breakReported = true ∧ (broken.port .A).receiver = .hunt ∧
        (broken.port .A).accepted = []) ∧
      ((State.reset.port .A).breakReported = false ∧ (State.reset.port .A).session = .closed) ∧
      ((refused.port .A).session ≠ .closed ∧ (refused.port .A).refusing = true) ∧
      ((bothUp.port .A).session ≠ .closed ∧ (bothUp.port .A).refusing = false ∧ (bothUp.port .A).breakReported = false) := by
  decide

/-- Between LINK_BREAK and BREAK_LINE_MARK an OPEN frame, and an OPEN, find the port as the break left it; after the mark the
frame is accepted (R155, R161). -/
theorem test_break_hides_frames :
    let broken := after (.linkBreak .A) bothUp
    let frame := Instr.dataFrameReceived .A 0 0 [0x01, 7, 64, 0, 1, 0, 5]
    after frame broken = broken ∧ after (.syncByte .A) broken = broken ∧
      after (.openSession .A 0 [7, 64, 0, 1, 0, 5]) broken = broken ∧
      ((after frame (after (.breakLineMark .A) broken)).port .A).accepted = [{ seq := 0, payload := [0x01, 7, 64, 0, 1, 0, 5] }] := by
  decide +kernel

theorem witness_AnnounceBegins :
    let s := State.reset.updPort .B fun P => { P with announce := .waiting 1 }
    (State.reset.running ∧ (State.reset.port .A).session = .closed ∧ (State.reset.port .A).tx = none ∧
        (State.reset.port .A).announce = .due) ∧
      ((s.port .B).session = .closed ∧ (s.port .B).tx = none ∧ (s.port .B).announce = .waiting 1) := by
  decide

/-! ## Witnesses: the end of a session -/

theorem witness_OrderlyEndClosesThePort :
    ((routeOne [offeredRec 1] (some (oneBatch .timing))).route 1).owner = some .A ∧
      ((portA fun P => { P with resetPending := true }).port .A).resetPending = true := by
  decide

theorem witness_SessionLossReturnsAndFailsOver :
    let s := (routeOne [offeredRec 1] (some (oneBatch .timing))).updRoute 1 fun t => { t with cfg := { t.cfg with failover := true } }
    (s.route 1).owner = some .A ∧ (s.route 1).cfg.failover = true ∧ (s.port (otherPort .A)).session = .up ∧
      ((routeOne [] none).route 1).cfg.failover = false ∧ (s.source 51).state ≠ .off ∧ (s.source 54).state ≠ .off := by
  decide

theorem witness_SoftResetReachesEveryBlock :
    let s := portA fun P => { P with resetPending := true, resetTimer := some 1 }
    s.running ∧ (s.port .A).resetPending = true ∧ (s.port .A).resetTimer = some 1 := by
  decide

/-! ## Witnesses: requests -/

/-- On a port that is UP with nothing accepted, every request is taken. -/
theorem witness_Takes (p : Port) (code : Byte) (rest : List Byte) : Takes p code rest bothUp :=
  takes_direct (by cases p <;> decide)

/-- So is one that waits among the accepted, also in ENTERING_DORMANT. -/
theorem witness_Takes_accepted (code : Byte) (rest : List Byte) :
    Takes .A code rest (portA fun P =>
      { P with session := .enteringDormant, accepted := [{ seq := 0, payload := code :: rest }] }) :=
  takes_accepted { seq := 0, payload := code :: rest } [] ⟨rfl, rfl, rfl, show Session.enteringDormant ≠ .closed by decide⟩

theorem witness_BadCodesAndBadLengthsAreRefused :
    (0x00 : Byte) ∉ requestCodes ∧ (0x09 : Byte) ∉ requestCodes ∧ (0xFF : Byte) ∉ requestCodes ∧
      ([] : List Byte).length + 1 ≠ 2 ∧ ([1, 2] : List Byte).length + 1 ≠ 2 := by
  decide

theorem witness_TimeAndLinesAreRead :
    ([] : List Byte).length ≠ 1 ∧ ([1, 2] : List Byte).length ≠ 1 ∧
      ((lineZero .high .watch (.settled true 0) true).line 0).filter = .settled true 0 ∧
      (bothUp.line 47).filter = .unsettled false 0 := by
  decide

theorem witness_TablesAreRead :
    56 ≤ (56 : Byte).toNat ∧ (55 : Byte).toNat = (55 : SourceNo).val ∧ (0 : Byte).toNat = (0 : SourceNo).val ∧
      8 ≤ (8 : Byte).toNat ∧ (7 : Byte).toNat = (7 : RouteNo).val ∧ 16 ≤ (16 : Byte).toNat ∧
      (15 : Byte).toNat = (15 : ActionNo).val := by
  decide

/-- A ring of two entries, the newest with close number 0. -/
def twoClosed : History :=
  { counter := 1
    entries :=
      [{ closeNo := 0xFFFF, seq := 1, source := 3, kind := .rise, count := 1, outcome := .dropped, first := 0, closeTime := 4 },
        { closeNo := 0, seq := 2, source := 3, kind := .rise, count := 1, outcome := .serviced, first := 0, closeTime := 5 }] }

theorem witness_HistoryIsRead :
    twoClosed.consecutive ∧ Takes .A 0x38 [1, 0, 0, 64] { bothUp with history := twoClosed } ∧
      ((0 : Byte).toNat = 0 ∧ 64 < (65 : Byte).toNat ∧ 1 ≤ (1 : Byte).toNat ∧ (64 : Byte).toNat ≤ 64) ∧
      twoClosed.entries[0].closeNo = 0xFFFF ∧ (∀ k : Fin twoClosed.entries.length, twoClosed.entries[k].closeNo ≠ 7) ∧
      (7 : Half) ≠ twoClosed.counter :=
  ⟨⟨by decide, by decide⟩, takes_direct (by decide), by decide, rfl, by decide, by decide⟩

theorem witness_TimeIsSetAndSessionsAreLeft :
    let closing := portA fun P => { P with closing := true }
    let serving := routeOne [offeredRec 1] (some (oneBatch .timing))
    ((closing.port .A).closing = true ∧ (serving.route 1).owner = some .A ∧ (serving.route 1).state = .inService) ∧
      ((bothUp.port .A).closing = false ∧ ∀ r, ¬((bothUp.route r).owner = some .A ∧ (bothUp.route r).state = .inService)) := by
  decide

theorem witness_OpenBeginsASession :
    let e := (bothUp.port .A).expected
    let waiting := portA fun P => { P with accepted := [{ seq := e - 1, payload := 0x01 :: [7] }] }
    let inRange := fun (m0 m1 w timeout : Byte) =>
      64 ≤ m0.toNat + 256 * m1.toNat ∧ m0.toNat + 256 * m1.toNat ≤ 1024 ∧ 1 ≤ w.toNat ∧ w.toNat ≤ 4 ∧ 1 ≤ timeout.toNat
    (waiting.running ∧ (waiting.port .A).accepted = { seq := e - 1, payload := 0x01 :: [7] } :: []) ∧
      (State.reset.running ∧ (State.reset.port .A).accepted = [] ∧ (State.reset.port .A).breakReported = false ∧
        (State.reset.port .A).session = .closed) ∧
      ((bothUp.port .A).accepted = [] ∧ (bothUp.port .A).breakReported = false ∧ ¬(e = e - 1 ∨ e = e - 2 ∨ e = e - 3 ∨ e = e - 4)) ∧
      ([7] : List Byte).length ≠ 6 ∧ inRange 64 0 1 1 ∧ inRange 0 4 4 255 ∧ ¬inRange 63 0 1 1 ∧ ¬inRange 1 4 1 1 ∧
      ¬inRange 64 0 0 1 ∧ ¬inRange 64 0 5 1 ∧ ¬inRange 64 0 1 0 := by
  decide

theorem witness_SourceIsConfigured :
    let line : SourceConfig := { mode := .low, filter := .ms64, route := some 7, coalesce := true, holdoff := 255 }
    let internal : SourceConfig := { mode := .off, filter := .none, route := none, coalesce := true, holdoff := 0 }
    ([47, 5, 4, 7, 1, 255] : List Byte) =
        [byte (47 : SourceNo).val, modeCode line.mode, filterCode line.filter, routeCode line.route, flagCode line.coalesce,
          byte line.holdoff] ∧
      ([48, 0, 0, 255, 1, 0] : List Byte) =
        [byte (48 : SourceNo).val, modeCode internal.mode, filterCode internal.filter, routeCode internal.route,
          flagCode internal.coalesce, byte internal.holdoff] ∧
      ((bothUp.route 7).owner = none ∧ ((routeOne [] none).route 1).owner = some .A ∧
        ((routeOne [] none).route 1).owner ≠ none ∧ ((routeOne [] none).route 1).owner ≠ some .B) ∧
      (56 ≤ (56 : Byte).toNat ∧ 5 < (6 : Byte).toNat ∧ ((1 : Byte).toNat ≠ 0 ∧ (1 : Byte).toNat ≠ 6) ∧ 4 < (5 : Byte).toNat) ∧
      (8 ≤ (8 : Byte).toNat ∧ (254 : Byte).toNat ≤ 254 ∧ 1 < (2 : Byte).toNat) := by
  decide

theorem witness_RecordsCloseAsOneEvent :
    bothUp.history.entries.length ≤ 64 ∧ bothUp.store.freeReserve ≤ 8 ∧ (emptyStore bothUp 0).store.freeReserve ≤ 8 := by
  decide

theorem witness_RouteIsConfigured :
    let c : RouteConfig :=
      { priority := 3, depth := 1, policy := .dropOld, batchMax := 16, serviceTimeout := 255, retries := 7, wake := true,
        failover := false, takeover := true, masked := false }
    let queued := routeOne [offeredRec 1, pendingRec 2] (some (oneBatch .timing))
    let serving := routeOne [offeredRec 1, offeredRec 2] (some { oneBatch .timing with n := 2 })
    ([1, 3, 1, 1, 16, 255, 7, 1, 0, 1, 0] : List Byte) =
        [byte (1 : RouteNo).val, byte c.priority, byte c.depth, if c.policy = .dropNew then 0 else 1, byte c.batchMax,
          byte c.serviceTimeout, byte c.retries, flagCode c.wake, flagCode c.failover, flagCode c.takeover,
          flagCode c.masked] ∧
      ((queued.route 1).owner = some (otherPort .B) ∧ (queued.route 1).owner ≠ some (otherPort .A) ∧
        (bothUp.route 1).owner ≠ some (otherPort .A)) ∧
      ((queued.route 1).queue = [offeredRec 1] ++ [pendingRec 2] ∧ (∀ x ∈ [offeredRec 1], x.state = .offered) ∧
        (∀ x ∈ [pendingRec 2], x.state = .pending) ∧ [offeredRec 1].length ≤ c.depth) ∧
      ((serving.route 1).queue = [offeredRec 1, offeredRec 2] ++ [] ∧ c.depth < [offeredRec 1, offeredRec 2].length) ∧
      (8 ≤ (8 : Byte).toNat ∧ 3 < (4 : Byte).toNat ∧ 64 < (65 : Byte).toNat ∧ 1 < (2 : Byte).toNat ∧ 16 < (17 : Byte).toNat ∧
        7 < (8 : Byte).toNat) := by
  decide

theorem witness_RoutesChangeHands :
    let away := (routeOne [] none).updPort .A fun P => { P with session := .closed }
    let taking := (routeOne [] none).updRoute 1 fun t => { t with cfg := { t.cfg with takeover := true } }
    ((routeOne [] none).route 1).owner = some .A ∧ (bothUp.route 1).owner = none ∧
      ((away.route 1).owner = some (otherPort .B) ∧ (away.port (otherPort .B)).session = .closed) ∧
      ((taking.route 1).owner = some (otherPort .B) ∧ (taking.route 1).cfg.takeover = true) ∧
      (((routeOne [] none).route 1).owner = some (otherPort .B) ∧ ((routeOne [] none).port (otherPort .B)).session ≠ .closed ∧
        ((routeOne [] none).route 1).cfg.takeover = false) ∧
      ((1 : Byte).toNat = (1 : RouteNo).val ∧ (1 : Byte).toNat ≤ 1 ∧ 1 < (2 : Byte).toNat ∧ 8 ≤ (8 : Byte).toNat) ∧
      Takes .B 0x22 [0, 1, 0] away :=
  ⟨by decide, by decide, by decide, by decide, by decide, by decide, takes_direct (by decide)⟩

theorem witness_ServiceDoneEndsTheBatch :
    let s := routeOne [offeredRec 1, pendingRec 2] (some (oneBatch .timing))
    Takes .A 0x25 [0, 1, 9, 1] s ∧ Takes .B 0x25 [0, 1, 9, 1] s ∧
      ((s.route 1).owner = some .A ∧ (s.route 1).owner ≠ some .B ∧ (s.route 1).batch = some (oneBatch .timing) ∧
        (s.route 1).state = .inService ∧ (oneBatch .timing).tag = 9 ∧ (oneBatch .timing).tag ≠ 8) ∧
      ((oneBatch .timing).n < (2 : Byte).toNat ∧ (1 : Byte).toNat ≤ (oneBatch .timing).n) ∧
      ((routeOne [pendingRec 1] none).route 1).state ≠ .inService ∧
      (8 ≤ (8 : Byte).toNat ∧ 16 < (17 : Byte).toNat ∧ (16 : Byte).toNat ≤ 16 ∧ (9 : Byte) ≠ 0) :=
  ⟨takes_direct (by decide), takes_direct (by decide), by decide, by decide, by decide, by decide⟩

theorem witness_ActionsAreCommanded :
    let c : ActionConfig :=
      { trigger := some 55, kind := .graced, grace := 255, shape := .pulse, width := .ms1000, activeHigh := true, pushPull := false }
    ([15, 55, 1, 255, 1, 3, 1, 0] : List Byte) =
        [byte (15 : ActionNo).val, triggerCode c.trigger, actionKindCode c.kind, byte c.grace, shapeCode c.shape, widthCode c.width,
          flagCode c.activeHigh, flagCode c.pushPull] ∧
      (c.trigger ≠ some 53 ∧ c.kind ≠ .manual) ∧ (15 : Byte).toNat = (15 : ActionNo).val ∧ 16 ≤ (16 : Byte).toNat ∧
      ((bothUp.action 15).state = .idle ∧ ((actionFour .graced (.grace 1)).action 4).state = .grace 1 ∧
        ((actionFour .manual (.fired .request none)).action 4).state = .fired .request none) ∧
      ((53 : Byte).toNat = 53 ∧ 56 ≤ (56 : Byte).toNat ∧ (254 : Byte).toNat ≤ 254 ∧ 2 < (3 : Byte).toNat ∧ (255 : Byte).toNat = 255 ∧
        1 < (2 : Byte).toNat ∧ 3 < (4 : Byte).toNat) ∧
      Takes .A 0x32 [0, 4] (actionFour .graced (.grace 1)) :=
  ⟨by decide, by decide, by decide, by decide, by decide, by decide, takes_direct (by decide)⟩

/-! ## Witnesses: invariants -/

/-- Both ports UP and a command waiting. -/
def waitingPing : State := { bothUp with pending := [.transmitAckFrame .A] }

theorem witness_StepKeepsStoreAndQueues :
    step waitingPing = .next (after (.transmitAckFrame .A) bothUp) ∧ waitingPing.poolsAgree ∧ waitingPing.queuesFit ∧
      waitingPing.recordsInRange := by
  refine ⟨rfl, ?_, ?_, fun r => ⟨?_, ?_⟩⟩
  · unfold State.poolsAgree
    decide
  · unfold State.queuesFit
    decide
  · revert r
    decide
  · revert r
    decide

theorem witness_StepKeepsHistoryAndCounter : twoClosed.consecutive ∧ waitingPing.counterNotZero :=
  ⟨⟨by decide, by decide⟩, by unfold State.counterNotZero; decide⟩

/-- A port on which a break has just been reported meets what `quietOutsideSession` says of it (R155). -/
theorem test_break_leaves_the_port_quiet : ((after (.linkBreak .A) bothUp).port .A).quietOutsideSession := by
  unfold PortState.quietOutsideSession
  decide +kernel

theorem witness_StepKeepsPortsInOrder :
    waitingPing.placesWithinEight ∧ waitingPing.quietOutsideSessions ∧ waitingPing.windowsFit := by
  refine ⟨fun p => ?_, fun p => ?_, fun p => ?_⟩
  · cases p <;> decide
  · unfold PortState.quietOutsideSession
    cases p <;> decide
  · cases p <;> decide

theorem witness_StepKeepsBatchesAgreeing : waitingPing.batchesAgree ∧ waitingPing.settingsInRange := by
  refine ⟨fun r => ?_, ?_⟩
  · have h : (waitingPing.route r).batch = none ∧ (waitingPing.route r).queue = [] ∧ (waitingPing.route r).timer = none := by
      revert r
      decide
    rw [h.1]
    simp [h.2.1, h.2.2, offeredPrefix]
  · unfold State.settingsInRange
    refine ⟨by decide, by decide, by decide, fun p => ?_⟩
    cases p <;> decide

/-! ## One step, against the bytes and values the spec writes out -/

/-- The check values of R134. -/
theorem test_check_values :
    crc8 [0x31, 0x32, 0x33, 0x34, 0x35, 0x36, 0x37, 0x38, 0x39] = 0xF4 ∧
      crc16 [0x31, 0x32, 0x33, 0x34, 0x35, 0x36, 0x37, 0x38, 0x39] = 0x29B1 := by
  decide +kernel

/-- 11.5, steps 1 and 2: OPENED with session 1 and next sequence 1. -/
theorem test_open_is_answered :
    lastReply .A (after (.openSession .A 9 [5, 0, 1, 2, 0, 5]) State.reset) =
      [0x81, 5, 0x00, 1, 0, 0x16, 0x48, 0x01, 1, 0, 0, 0, 248, 8, 64] := by
  decide +kernel

/-- 11.5, step 3: the claim's record has detail 0x22 and port 0. -/
theorem test_claim_creates_a_record :
    let s := after (.claimRoute .A [1, 7, 0]) bothUp
    lastReply .A s = [0xA2, 1, 0x00, 7, 0xFF, 0, 0x00] ∧ s.store.nextSeq = 2 ∧
      (s.route 7).queue.map (fun x => (x.seq, x.source, x.detail)) = [(1, 55, 0x0022)] := by
  decide +kernel

/-- 11.5, step 5: DENIED names the owner. -/
theorem test_claim_of_an_owned_route :
    lastReply .B (after (.claimRoute .B [1, 1, 0]) (routeOne [] none)) = [0xA2, 1, 0x07, 1, 0] := by
  decide +kernel

/-- 11.6, step 7: the batch size is the least of batch max, queue and (128 − 8) / 21 = 5. -/
theorem test_batch_of_five :
    let s := (routeOne ((List.range 6).map pendingRec) none)
    let t := after (.formBatch .A) s
    ((t.route 1).batch.map fun b => (b.tag, b.n, b.snapshot)) = some (10, 5, 7) ∧
      ((t.port .A).window.map fun w => (w.message.length, w.message.take 8)) =
        [(113, [0x40, 0, 1, 10, 0x00, 7, 0, 5])] := by
  decide +kernel

/-- 11.6, step 10: SERVICE-DONE closes, returns and settles. -/
theorem test_service_done_is_answered :
    let s := routeOne [offeredRec 1, offeredRec 2, pendingRec 3] (some { oneBatch .timing with n := 2 })
    let t := after (.serviceDone .A [1, 1, 9, 1]) s
    lastReply .A t = [0xA5, 1, 0x00, 1, 9, 1, 1, 2, 4, 0] ∧
      (t.route 1).queue.map (fun x => (x.seq, x.state, x.redelivered)) = [(2, .pending, true), (3, .pending, false)] ∧
      t.history.entries.map (fun e => (e.closeNo, e.seq, e.outcome)) = [(0, 1, .serviced)] := by
  decide +kernel

/-- A loss by retry limit, with failover off: the batch returns, the owner stays, LINK_A_DOWN has detail 2 (R107, R168). -/
theorem test_loss_by_retry_limit :
    let s := (routeOne [offeredRec 1] (some (oneBatch .awaitingAck))).updPort .A fun P =>
      { P with window := [slot 4 (.notify 1 9) .sent], retransmit := some 1, attempts := 8 }
    let t := after (.retransmitTimeout .A) s
    (t.route 1).owner = some .A ∧ (t.route 1).queue.map (fun x => (x.state, x.redelivered)) = [(.pending, true)] ∧
      (t.port .A).session = .closed ∧ (t.port .A).window = [] ∧
      (t.route 7).queue.map (fun x => (x.source, x.detail)) = [(51, 2)] := by
  decide +kernel

/-- 11.7, step 5: ROUTE-GAINED reports READY, a queue and a tally. -/
theorem test_route_gained_is_placed :
    let s := ((routeOne [pendingRec 1] none).updRoute 1 fun t => { t with owner := some .B }).updPort .B fun P =>
      { P with routeNotices := P.routeNotices.set 1 .gained }
    ((after (.routeGained .B) s).port .B).window.map Slot.message = [[0x41, 0, 1, 1, 0, 0x01, 1, 7, 0]] := by
  decide +kernel

/-- 11.8: ACTION-PENDING with 2.0 s remaining sets the told mark. -/
theorem test_action_pending_is_placed :
    let s := (actionFour .graced (.grace 2000000)).updPort .A fun P => { P with actionNotices := P.actionNotices.set 4 .pending }
    let t := after (.actionPending .A) s
    (t.port .A).window.map Slot.message = [[0x43, 0, 4, 0, 40, 20]] ∧ (t.port .A).told[4] = true := by
  decide +kernel

/-- 11.8: CANCEL-ACTION in GRACE is OK, and after the firing TOO_LATE. -/
theorem test_cancel_action_is_answered :
    lastReply .A (after (.cancelAction .A [1, 4]) (actionFour .graced (.grace 5))) = [0xB2, 1, 0x00, 4, 0, 0] ∧
      lastReply .B (after (.cancelAction .B [1, 4]) (actionFour .graced (.fired .graceExpiry none))) =
        [0xB2, 1, 0x09, 4, 0, 2] := by
  decide +kernel

/-- 11.8, 3.6 s: the grace expires, ACTION_FIRED raises detail 0x0204 and OUT4 goes low. -/
theorem test_grace_expires :
    let t := after (.graceExpiry 4) (actionFour .graced (.grace 1))
    (t.action 4).state = .fired .graceExpiry none ∧ t.outPin 4 = .drivenLow ∧
      (t.route 7).queue.map (fun x => (x.source, x.detail)) = [(53, 0x0204)] := by
  decide +kernel

/-- An ACK frame with every flag, and what it clears. -/
theorem test_ack_frame_with_every_flag :
    let s := portA fun P =>
      { P with expected := 8, ackDemand := true, report := ⟨true, true, true, true, true, true, true⟩ }
    let t := after (.transmitAckFrame .A) s
    ((t.port .A).tx.map fun x => x.frame.bytes.take 6) = some [0xB4, 0x02, 7, 0x7F, 0, 0] ∧ (t.port .A).report = .clear := by
  decide +kernel

/-- The first ANNOUNCE of Port A after power-on. -/
theorem test_announce_frame :
    ((after (.announce .A) State.reset).port .A).tx.map (fun x => x.frame.bytes.take 15) =
      some ([0xB4, 0x03, 0, 0, 8, 0, crc8 [0xB4, 0x03, 0, 0, 8, 0]] ++ [0x16, 0x48, 0x01, 0x41, 1, 0, 0, 0]) := by
  decide +kernel

/-- A close report with the line active and holdoff 0 makes a REARM record stamped with the close; with a holdoff it starts. -/
theorem test_close_report_rearms :
    ((handHeld (.closeReport 5 0 77) (raisedOnFive 0 true)).route 0).queue.map (fun x => (x.kind, x.first)) = [(.rearm, 77)] ∧
      ((handHeld (.closeReport 5 0 77) (raisedOnFive 3 true)).source 0).state = .holdoff 30000 := by
  decide +kernel

/-- A rise accepted on line 0 makes a RISE record on route 0. -/
theorem test_rise_is_recorded :
    let t := after (.acceptedLevelChange 0) (lineZero .rise .watch (.settled false 1) true)
    (t.route 0).queue.map (fun x => (x.seq, x.source, x.kind)) = [(1, 0, .rise)] := by
  decide +kernel

/-- A request in the backlog's last place is accepted; the next is answered with RX_FULL and not accepted. -/
theorem test_full_backlog :
    let full := fun n => portA fun P => { P with backlog := List.replicate n { message := [], role := .plain } }
    ((after (.dataFrameReceived .A 0 0 [0x03, 1]) (full 7)).port .A).accepted = [{ seq := 0, payload := [0x03, 1] }] ∧
      ((after (.dataFrameReceived .A 0 0 [0x03, 1]) (full 8)).port .A).report.rxFull = true := by
  decide +kernel

/-- Hard reset leaves every pin at high impedance, and the release samples the straps. -/
theorem test_reset_and_release :
    (after (.hardReset .pin) bothUp).outPin 0 = .highImpedance ∧
      (after (.resetRelease true false) (State.heldInReset [] 0 .pin)).bitRate = 1000000 ∧
      ((after (.resetRelease true false) (State.heldInReset [] 0 .pin)).port .B).cause = .pin := by
  decide

end Sys2Proof.Tests
end

namespace Sys2Proof.Machine

/-! ## The Line Sampler -/

/-- A line's report is due when its count has reached the filter length (R2, R3). -/
theorem State.lineDue_iff (s : State) (i : LineNo) :
    s.lineDue i = true ↔ (∃ level run, (s.line i).filter = .settled level run ∧ s.lineN i ≤ run) ∨
      ∃ candidate count, (s.line i).filter = .unsettled candidate count ∧ s.lineN i ≤ count := by
  unfold State.lineDue
  cases (s.line i).filter <;> simp

/-- A sample that agrees with the candidate counts on; any other is a new candidate (R3). -/
theorem Line.sample_unsettled (raw : Bool) (l : Line) {candidate : Bool} {count : Nat}
    (h : l.filter = .unsettled candidate count) :
    (l.sample raw).filter =
      if count = 0 then .unsettled raw 1
      else if raw = candidate then .unsettled candidate (count + 1) else .unsettled raw 1 := by
  unfold Line.sample
  rw [h]
  by_cases hc : count = 0 <;> by_cases hr : raw = candidate <;> simp [hc, hr]

theorem Line.sample_settled (raw : Bool) (l : Line) {level : Bool} {run : Nat} (h : l.filter = .settled level run) :
    (l.sample raw).filter = .settled level (if raw = level then 0 else run + 1) := by
  unfold Line.sample
  rw [h]

theorem exec_sampleInstant {s : State} (h : s.running) (hd : s.firstDue = none) (raw : BitVec 48) :
    exec (.sampleInstant raw) s = .next (sampleLines raw s) :=
  (taken_of_running h _).trans (by rw [if_pos hd])

theorem exec_acceptedLevelChange {s : State} {i : LineNo} (h : s.running) (hd : s.firstDue = some i) :
    exec (.acceptedLevelChange i) s = .next (acceptChange i s) :=
  (taken_of_running h _).trans (by rw [if_pos hd])

theorem exec_settleReport {s : State} {i : LineNo} (h : s.running) (hd : s.firstDue = some i) :
    exec (.settleReport i) s = .next (settleLine i s) :=
  (taken_of_running h _).trans (by rw [if_pos hd])

theorem exec_holdoffExpiry {s : State} (i : LineNo) (h : s.running) :
    exec (.holdoffExpiry i) s = .next (holdoffExpires (sourceOf i) s) := taken_of_running h _

theorem acceptChange_of_settled {i : LineNo} {s : State} {level : Bool} {run : Nat}
    (h : (s.line i).filter = .settled level run) :
    acceptChange i s = handOnHeld (sourceSeesChange (sourceOf i) (s.line i).raw s.sampleTime
      (s.updLine i fun l => { l with filter := .settled (s.line i).raw 0 })) := by
  unfold acceptChange
  rw [h]

theorem settleLine_of_unsettled {i : LineNo} {s : State} {candidate : Bool} {count : Nat}
    (h : (s.line i).filter = .unsettled candidate count) :
    settleLine i s = handOnHeld (sourceSeesSettle (sourceOf i) candidate s.sampleTime
      (s.updLine i fun l => { l with filter := .settled candidate 0 })) := by
  unfold settleLine
  rw [h]

theorem holdoffExpires_of_holdoff {i : SourceNo} {s : State} {left : Nat} (h : (s.source i).state = .holdoff left) :
    holdoffExpires i s = handOnHeld (occur i .rearm s.timebase s) := by
  unfold holdoffExpires
  rw [h]

/-- Updates of one line by functions that agree on it are equal. -/
theorem State.updLine_congr {i : LineNo} {f g : Line → Line} {s : State} (h : f (s.line i) = g (s.line i)) :
    s.updLine i f = s.updLine i g := by
  have : f s.lines[i.val] = g s.lines[i.val] := h
  simp [State.updLine, Table.update, this]

/-! ### O6: samples -/

/-- Settles O6, from the test that `firstDue` makes line by line, and the sample of each line by its filter's phase. -/
theorem sampleInstantUpdatesEveryLine : Obligations.SampleInstantUpdatesEveryLine := by
  refine ⟨?_, fun raw s hr hd => ?_⟩
  · intro s length due
    have hlen : ∀ i, s.lineN i = length i := fun i => by
      unfold State.lineN length
      cases (s.source ⟨i.val, by omega⟩).cfg.filter <;> rfl
    have hdue : ∀ i, s.lineDue i = true ↔ due i := fun i => by
      rw [State.lineDue_iff, hlen]
      unfold due
      cases (s.line i).filter <;> simp
    simp only [State.firstDue_eq_none_iff, State.firstDue_eq_some_iff, hdue, implies_true, and_self]
  · rw [exec_sampleInstant hr hd]
    refine congrArg (fun v => Host.Outcome.next { s with sampleTime := s.timebase, lines := Vector.ofFn v })
      (funext fun i => ?_)
    change ({ raw := raw.getLsb i, filter := (Line.sample (raw.getLsb i) (s.line i)).filter } : Line) = _
    congr 1
    cases hf : (s.line i).filter with
    | settled level run => exact Line.sample_settled _ _ hf
    | unsettled candidate count => exact Line.sample_unsettled _ _ hf

/-! ### O7, O8, O9: what reaches the line's source -/

/-- The change of a line's level reaches its source as the level at which that source is active or not (R4, R10). -/
theorem sourceSeesChange_of_level {i : SourceNo} {s : State} {active : Bool}
    (h : (s.source i).cfg.mode = .high ∧ active = true ∨ (s.source i).cfg.mode = .low ∧ active = false) (level : Bool)
    (time : Time) : sourceSeesChange i level time s = levelSees i (level == active) time s := by
  unfold sourceSeesChange
  obtain ⟨hm, rfl⟩ | ⟨hm, rfl⟩ := h <;> rw [hm] <;> cases level <;> rfl

/-- An accepted change reaches a source that is not a level source by its mode alone (R9, R12). -/
theorem sourceSeesChange_of_off {i : SourceNo} {s : State} (h : (s.source i).cfg.mode = .off) (level : Bool) (time : Time) :
    sourceSeesChange i level time s = s := by
  unfold sourceSeesChange
  rw [h]

theorem sourceSeesChange_of_rise {i : SourceNo} {s : State} (h : (s.source i).cfg.mode = .rise) (level : Bool) (time : Time) :
    sourceSeesChange i level time s = if level = true then occur i .rise time s else s := by
  unfold sourceSeesChange
  rw [h]

theorem sourceSeesChange_of_fall {i : SourceNo} {s : State} (h : (s.source i).cfg.mode = .fall) (level : Bool) (time : Time) :
    sourceSeesChange i level time s = if level = true then s else occur i .fall time s := by
  unfold sourceSeesChange
  rw [h]

theorem sourceSeesChange_of_both {i : SourceNo} {s : State} (h : (s.source i).cfg.mode = .both) (level : Bool) (time : Time) :
    sourceSeesChange i level time s = occur i (if level = true then .rise else .fall) time s := by
  unfold sourceSeesChange
  rw [h]

/-- A level source in WATCH has an occurrence when its line becomes active (R11). -/
theorem levelSees_of_watch {i : SourceNo} {s : State} (h : (s.source i).state = .watch) (active : Bool) (time : Time) :
    levelSees i active time s = if active = true then occur i .active time s else s := by
  unfold levelSees
  rw [h]

/-- A level source without an open record rests when its line becomes inactive (R12, R14). -/
theorem levelSees_of_noOpenRecord {i : SourceNo} {s : State}
    (h : (s.source i).state = .raised none ∨ ∃ left, (s.source i).state = .holdoff left) (active : Bool) (time : Time) :
    levelSees i active time s = if active = true then s else restSource i s := by
  unfold levelSees
  obtain h | ⟨left, h⟩ := h <;> rw [h]

/-- A level source that is OFF or waits for its record to close does not act on its line (R9, R13). -/
theorem levelSees_of_deaf {i : SourceNo} {s : State}
    (h : (s.source i).state = .off ∨ ∃ q, (s.source i).state = .raised (some q)) (active : Bool) (time : Time) :
    levelSees i active time s = s := by
  unfold levelSees
  obtain h | ⟨q, h⟩ := h <;> rw [h]

theorem activeLevel_eq_some_iff (m : Mode) (level : Bool) :
    activeLevel m = some level ↔ m = .high ∧ level = true ∨ m = .low ∧ level = false := by
  cases m <;> simp [activeLevel, eq_comm]

/-- Settles O7: the accepted change is one hand-off to the source, and the source's mode and state say which. -/
theorem acceptedChangeReachesItsSource : Obligations.AcceptedChangeReachesItsSource := by
  intro i level run s hr hd hf src new s1 cfg makes quiet rests
  have hs1 : (s.updLine i fun l => { l with filter := .settled (s.line i).raw 0 }) = s1 := State.updLine_congr rfl
  have hexec : exec (.acceptedLevelChange i) s = .next (handOnHeld (sourceSeesChange src new s.sampleTime s1)) := by
    rw [exec_acceptedLevelChange hr hd, acceptChange_of_settled hf, hs1]
    rfl
  have hmakes : ∀ k, sourceSeesChange src new s.sampleTime s1 = occur src k s.sampleTime s1 → makes k := fun k h => by
    rw [h] at hexec
    exact hexec
  have hquiet : sourceSeesChange src new s.sampleTime s1 = s1 → quiet := fun h => by
    rw [h] at hexec
    exact hexec
  have hrests : sourceSeesChange src new s.sampleTime s1 = restSource src s1 → rests := fun h => by
    rw [h] at hexec
    exact hexec
  refine ⟨fun h => ?_, fun h => ?_, fun h => ?_, fun h => ?_, fun active h => ?_⟩
  · exact hquiet (sourceSeesChange_of_off (s := s1) h _ _)
  · have hsees := sourceSeesChange_of_rise (s := s1) h new s.sampleTime
    split
    next hn => exact hmakes _ (hsees.trans (if_pos hn))
    next hn => exact hquiet (hsees.trans (if_neg hn))
  · have hsees := sourceSeesChange_of_fall (s := s1) h new s.sampleTime
    split
    next hn => exact hquiet (hsees.trans (if_pos hn))
    next hn => exact hmakes _ (hsees.trans (if_neg hn))
  · have hsees := sourceSeesChange_of_both (s := s1) h new s.sampleTime
    split
    next hn => exact hmakes _ (hsees.trans (by rw [if_pos hn]))
    next hn => exact hmakes _ (hsees.trans (by rw [if_neg hn]))
  · have hsees := sourceSeesChange_of_level (i := src) (s := s1) (active := active) h new s.sampleTime
    have hactive : (new == active) = true ↔ new = active := beq_iff_eq
    cases hst : (s.source src).state with
    | off => exact hquiet (hsees.trans (levelSees_of_deaf (s := s1) (.inl hst) _ _))
    | watch =>
      rw [levelSees_of_watch (s := s1) hst] at hsees
      dsimp only
      split
      next hn => exact hmakes _ (hsees.trans (if_pos (hactive.2 hn)))
      next hn => exact hquiet (hsees.trans (if_neg (hactive.not.2 hn)))
    | raised q =>
      cases q with
      | some q => exact hquiet (hsees.trans (levelSees_of_deaf (s := s1) (.inr ⟨q, hst⟩) _ _))
      | none =>
        rw [levelSees_of_noOpenRecord (s := s1) (.inl hst)] at hsees
        dsimp only
        split
        next hn => exact hquiet (hsees.trans (if_pos (hactive.2 hn)))
        next hn => exact hrests (hsees.trans (if_neg (hactive.not.2 hn)))
    | holdoff left =>
      rw [levelSees_of_noOpenRecord (s := s1) (.inr ⟨left, hst⟩)] at hsees
      dsimp only
      split
      next hn => exact hquiet (hsees.trans (if_pos (hactive.2 hn)))
      next hn => exact hrests (hsees.trans (if_neg (hactive.not.2 hn)))

/-- Settles O8, from the one case in which a settle report makes an occurrence. -/
theorem settleReportReachesItsSource : Obligations.SettleReportReachesItsSource := by
  intro i candidate count s hr hd hf src s1 cfg
  rw [exec_settleReport hr hd, settleLine_of_unsettled hf]
  unfold sourceSeesSettle
  simp only [activeLevel_eq_some_iff]
  rfl

/-- Settles O9. -/
theorem holdoffExpiryRearms : Obligations.HoldoffExpiryRearms := by
  intro i left s hr hs
  rw [exec_holdoffExpiry i hr, holdoffExpires_of_holdoff (i := sourceOf i) hs]
  rfl

/-! ### O19: the frame of the line commands -/

/-- A command that acts by `f` answers what `f` makes of the part, or the part as it is while it is held in hard reset. -/
theorem taken_next {s t : State} {f : State → State} (h : taken s f = .next t) : t = f s ∨ t = s := by
  by_cases hr : s.running
  · rw [taken_of_running hr] at h
    exact .inl (Host.Outcome.next.inj h).symm
  · rw [taken_of_hardReset hr] at h
    exact .inr (Host.Outcome.next.inj h).symm

variable {P : State → Prop}

theorem HandOnKeeps.levelSees (k : HandOnKeeps P) (i : SourceNo) (active : Bool) (time : Time) (s : State) (h : P s) :
    P (levelSees i active time s) := by
  unfold Machine.levelSees
  cases (s.source i).state with
  | off => exact h
  | watch => cases active <;> [exact h; exact k.occur i .active time s h]
  | raised q =>
    cases q with
    | some q => exact h
    | none => cases active <;> [exact k.answer i (fun _ => .watch) s h; exact h]
  | holdoff left => cases active <;> [exact k.answer i (fun _ => .watch) s h; exact h]

theorem HandOnKeeps.sourceSeesChange (k : HandOnKeeps P) (i : SourceNo) (level : Bool) (time : Time) (s : State) (h : P s) :
    P (sourceSeesChange i level time s) := by
  unfold Machine.sourceSeesChange
  cases (s.source i).cfg.mode with
  | off => exact h
  | on => exact h
  | rise => cases level <;> [exact h; exact k.occur i .rise time s h]
  | fall => cases level <;> [exact k.occur i .fall time s h; exact h]
  | both => exact k.occur i _ time s h
  | high => exact k.levelSees i level time s h
  | low => exact k.levelSees i (!level) time s h

theorem HandOnKeeps.sourceSeesSettle (k : HandOnKeeps P) (i : SourceNo) (level : Bool) (time : Time) (s : State) (h : P s) :
    P (sourceSeesSettle i level time s) := by
  unfold Machine.sourceSeesSettle
  split
  · exact k.occur i .active time s h
  · exact h

/-- The part beside line `i` and the raw levels is left as a hand-off leaves it. -/
def LineMoves (i : LineNo) (s t : State) : Prop :=
  ∃ f : Line → Line, (∀ l, (f l).raw = l.raw) ∧ KeptByHandOn (s.updLine i f) t

theorem LineMoves.refl (i : LineNo) (s : State) : LineMoves i s s := by
  refine ⟨fun l => l, fun l => rfl, ?_⟩
  have hs : (s.updLine i fun l => l) = s := by simp [State.updLine, Table.update]
  rw [hs]
  exact .rfl s

theorem acceptChange_moves (i : LineNo) (s : State) : LineMoves i s (acceptChange i s) := by
  unfold acceptChange
  split
  · refine ⟨fun l => { l with filter := .settled (s.line i).raw 0 }, fun _ => rfl, ?_⟩
    have k := keptByHandOn_keeps (s.updLine i fun l => { l with filter := .settled (s.line i).raw 0 })
    exact k.handOnHeld _ (k.sourceSeesChange _ _ _ _ (.rfl _))
  · exact .refl i s

theorem settleLine_moves (i : LineNo) (s : State) : LineMoves i s (settleLine i s) := by
  unfold settleLine
  split
  · rename_i candidate _ _
    refine ⟨fun l => { l with filter := .settled candidate 0 }, fun _ => rfl, ?_⟩
    have k := keptByHandOn_keeps (s.updLine i fun l => { l with filter := .settled candidate 0 })
    exact k.handOnHeld _ (k.sourceSeesSettle _ _ _ _ (.rfl _))
  · exact .refl i s

theorem holdoffExpires_kept (i : SourceNo) (s : State) : KeptByHandOn s (holdoffExpires i s) := by
  have k := keptByHandOn_keeps s
  unfold holdoffExpires
  split
  · exact k.handOnHeld _ (k.occur _ _ _ _ (.rfl s))
  all_goals exact .rfl s

theorem exec_acceptedLevelChange_moves {i : LineNo} {s t : State} (h : exec (.acceptedLevelChange i) s = .next t) :
    LineMoves i s t := by
  obtain rfl | rfl := taken_next h
  · split
    · exact acceptChange_moves i s
    · exact .refl i s
  · exact .refl i t

theorem exec_settleReport_moves {i : LineNo} {s t : State} (h : exec (.settleReport i) s = .next t) : LineMoves i s t := by
  obtain rfl | rfl := taken_next h
  · split
    · exact settleLine_moves i s
    · exact .refl i s
  · exact .refl i t

theorem exec_holdoffExpiry_kept {i : LineNo} {s t : State} (h : exec (.holdoffExpiry i) s = .next t) : KeptByHandOn s t := by
  obtain rfl | rfl := taken_next h
  · exact holdoffExpires_kept _ s
  · exact .rfl t

/-- A sample changes nothing but the lines and the time of the sample. -/
theorem exec_sampleInstant_kept {raw : BitVec 48} {s t : State} (h : exec (.sampleInstant raw) s = .next t) :
    t = { s with lines := t.lines, sampleTime := t.sampleTime } := by
  obtain rfl | rfl := taken_next h
  · split <;> rfl
  · rfl

/-- What a hand-off keeps of a part that differs from `s` in its lines alone. -/
theorem keptByHandOn_of_lines {s u t : State} (hu : u = { s with lines := u.lines }) (h : KeptByHandOn u t) :
    KeptByHandOn { s with lines := t.lines, sampleTime := t.sampleTime } t ∧ t.sampleTime = s.sampleTime ∧
      ∀ j, t.line j = u.line j := by
  have hs : { s with lines := t.lines, sampleTime := t.sampleTime } = u := by
    rw [h.lines, h.sampleTime, hu]
  refine ⟨hs ▸ h, ?_, fun j => congrArg (fun v : Vector Line 48 => v[j.val]) h.lines⟩
  rw [h.sampleTime, hu]

theorem LineMoves.frame {i : LineNo} {s t : State} (h : LineMoves i s t) :
    KeptByHandOn { s with lines := t.lines, sampleTime := t.sampleTime } t ∧ t.sampleTime = s.sampleTime ∧
      ∀ j, (j ≠ i → t.line j = s.line j) ∧ (t.line j).raw = (s.line j).raw := by
  obtain ⟨f, hf, hk⟩ := h
  obtain ⟨hkept, htime, hline⟩ := keptByHandOn_of_lines (s := s) (by rfl) hk
  refine ⟨hkept, htime, fun j => ?_⟩
  rw [hline j]
  by_cases e : j = i
  · subst e
    exact ⟨fun h => absurd rfl h, by rw [State.line_updLine_same, hf]⟩
  · rw [State.line_updLine_ne _ _ e]
    exact ⟨fun _ => rfl, rfl⟩

/-- Settles O19, command by command: each is a change of one line, or none, and then a hand-off. -/
theorem lineCommandsKeepTheRest : Obligations.LineCommandsKeepTheRest := by
  rintro c s t (⟨raw, rfl⟩ | ⟨i, rfl | rfl | rfl⟩) h
  · rw [← exec_sampleInstant_kept h]
    exact ⟨.rfl t, fun hc => absurd rfl (hc raw)⟩
  · obtain ⟨hkept, htime, hline⟩ := (exec_acceptedLevelChange_moves h).frame
    exact ⟨hkept, fun _ => ⟨htime, fun j => ⟨fun hj _ => (hline j).1 fun e => hj (e ▸ rfl), (hline j).2⟩⟩⟩
  · obtain ⟨hkept, htime, hline⟩ := (exec_settleReport_moves h).frame
    exact ⟨hkept, fun _ => ⟨htime, fun j => ⟨fun _ hj => (hline j).1 fun e => hj (e ▸ rfl), (hline j).2⟩⟩⟩
  · obtain ⟨hkept, htime, hline⟩ := keptByHandOn_of_lines (s := s) (by rfl) (exec_holdoffExpiry_kept h)
    exact ⟨hkept, fun _ => ⟨htime, fun j => ⟨fun _ _ => hline j, by rw [hline j]⟩⟩⟩

end Sys2Proof.Machine

namespace Sys2Proof.Machine

/-! ## Occurrences handed on -/

/-! ### O10: what is held -/

theorem State.raise_of_off {i : SourceNo} {s : State} (h : (s.source i).state = .off) (detail : Half) :
    s.raise i detail = s := by
  unfold State.raise
  rw [if_pos h]

theorem State.raise_of_on {i : SourceNo} {s : State} (h : (s.source i).state ≠ .off) (detail : Half) :
    s.raise i detail =
      { s with
        held := s.held ++
          [.occurrence { source := i, kind := .internal, detail := detail, time := s.timebase,
                         route := (s.source i).cfg.route, coalesce := true }] } := by
  unfold State.raise
  rw [if_neg h]
  rfl

/-- A hand-off that has finished within its bound is the whole hand-off. -/
theorem handOnHeld_of_finished {k : Nat} {s : State} (hk : k ≤ 4096) (h : (handSome k s).held = []) :
    handOnHeld s = handSome k s := by
  rw [handOnHeld_eq_handSome, ← Nat.add_sub_cancel' hk, handSome_of_finished k _ s h]

/-- Settles O10, from the laws of raising, of one hand-off and of what is held behind it. -/
theorem reportedConditionIsHeld : Obligations.ReportedConditionIsHeld := by
  refine ⟨fun i detail s => ⟨fun h => State.raise_of_off h detail, fun h => State.raise_of_on h detail⟩,
    fun s => ⟨handOnHeld_eq_handSome s, rfl⟩, fun k s => ⟨rfl, fun h => handSome_of_held_nil h k, fun h rest hs => ?_⟩,
    HoldsMore.handOn, HoldsMore.takeCloseReport, fun k s hk h => handOnHeld_of_finished hk h⟩
  rw [handSome_of_held_cons hs]
  cases h <;> rfl

/-! ### O11: the Action Unit -/

theorem allActions_eq_finRange : allActions = List.finRange 16 := by decide

theorem Action.firesFor_iff (i : SourceNo) (a : Action) :
    a.firesFor i = true ↔ a.cfg.trigger = some i ∧ a.state = .idle ∧ a.cfg.kind = .immediate := by
  simp [Action.firesFor, and_assoc]

theorem flatMap_guarded {α β : Type} (c : Prop) [Decidable c] (f : α → β) (l : List α) :
    (l.flatMap fun a => if c then [] else [f a]) = if c then [] else l.map f := by
  split
  · simp
  · exact List.map_eq_flatMap.symm

/-- What ACTION_FIRED reports after a hand-off, with the fields that the hand-off keeps as they were before it. -/
theorem handOn_reports (o : Occurrence) (s : State) (i : SourceNo) (detail : Half) :
    (handOn o s).reports i detail =
      if ((handOn o s).source i).state = .off then []
      else [.occurrence { source := i, kind := .internal, detail := detail, time := s.timebase,
                          route := (s.source i).cfg.route, coalesce := true }] := by
  unfold State.reports
  rw [(handOn_kept o s).timebase, (handOn_kept o s).sourceCfg]

theorem fire_action (n : ActionNo) (cause : FireCause) (s : State) :
    (fire n cause s).action n =
      { s.action n with
        state := .fired cause
          (if (s.action n).cfg.shape = .pulse then some (pulseTime (s.action n).cfg.width) else none) } := by
  unfold fire
  rw [State.raise_eq_reports]
  exact State.action_updAction_same n _ s

theorem fire_port (n : ActionNo) (cause : FireCause) (s : State) (p : Port) : (fire n cause s).port p = s.port p := by
  unfold fire
  rw [State.raise_eq_reports]
  rfl

theorem enterGrace_action (n : ActionNo) (s : State) :
    (enterGrace n s).action n =
      { s.action n with
        state := .grace ((s.action n).cfg.grace * 100000)
        graceNo := if (s.action n).graceNo = 255 then 1 else (s.action n).graceNo + 1 } := by
  unfold enterGrace
  simp only [State.action_updPort, State.action_updAction_same]
  rfl

theorem informAction_of_immediate {i : SourceNo} {s : State} {n : ActionNo} (ht : (s.action n).cfg.trigger = some i)
    (hs : (s.action n).state = .idle) (hk : (s.action n).cfg.kind = .immediate) :
    informAction i s n = fire n .immediate s := by
  unfold informAction
  rw [if_pos ⟨ht, hs⟩, hk]

theorem informAction_of_graced {i : SourceNo} {s : State} {n : ActionNo} (ht : (s.action n).cfg.trigger = some i)
    (hs : (s.action n).state = .idle) (hk : (s.action n).cfg.kind = .graced) : informAction i s n = enterGrace n s := by
  unfold informAction
  rw [if_pos ⟨ht, hs⟩, hk]

/-- An action that is not triggered, not IDLE or MANUAL takes no notice. -/
theorem informAction_of_deaf {i : SourceNo} {s : State} {n : ActionNo}
    (h : (s.action n).cfg.trigger ≠ some i ∨ (s.action n).state ≠ .idle ∨ (s.action n).cfg.kind = .manual) :
    informAction i s n = s := by
  unfold informAction
  split
  next ht =>
    obtain h | h | h := h
    · exact absurd ht.1 h
    · exact absurd ht.2 h
    · rw [h]
  next => rfl

/-- An action that does not enter GRACE leaves the ports as they are. -/
theorem informAction_port {i : SourceNo} {s : State} {n : ActionNo}
    (h : (s.action n).cfg.trigger ≠ some i ∨ (s.action n).state ≠ .idle ∨ (s.action n).cfg.kind ≠ .graced) (p : Port) :
    (informAction i s n).port p = s.port p := by
  unfold informAction
  split
  next ht =>
    cases hk : (s.action n).cfg.kind with
    | immediate => exact fire_port n .immediate s p
    | graced =>
      obtain h | h | h := h
      · exact absurd ht.1 h
      · exact absurd ht.2 h
      · exact absurd hk h
    | manual => rfl
  next => rfl

/-- The offer and the answer to the source leave the actions and the ports as they are. -/
theorem handOn_informs (o : Occurrence) (s : State) :
    ∃ v, handOn o s = informActions o.source v ∧ (∀ n, v.action n = s.action n) ∧ ∀ p, v.port p = s.port p := by
  have hanswer : ∀ (a : Answer) (u : State),
      (∀ n, (answerSource o a u).action n = u.action n) ∧ ∀ p, (answerSource o a u).port p = u.port p := fun a u => by
    unfold answerSource
    split <;> exact ⟨fun _ => rfl, fun _ => rfl⟩
  unfold handOn
  cases o.route with
  | none => exact ⟨_, rfl, (hanswer _ _).1, (hanswer _ _).2⟩
  | some r =>
    exact ⟨_, rfl, fun n => ((hanswer _ _).1 n).trans (offer_action o r s n),
      fun p => ((hanswer _ _).2 p).trans (offer_port o r s p)⟩

/-- What a hand-off does to action `n` and to its marks and flags is what informing it alone does. -/
theorem handOn_at (o : Occurrence) (s : State) (n : ActionNo) : ∃ u : State,
    u.action n = s.action n ∧
    (∀ p, (u.port p).told[n.val] = (s.port p).told[n.val] ∧
      (u.port p).actionNotices[n.val] = (s.port p).actionNotices[n.val] ∧ (u.port p).session = (s.port p).session) ∧
    (handOn o s).action n = (informAction o.source u n).action n ∧
    ∀ p, ((handOn o s).port p).told[n.val] = ((informAction o.source u n).port p).told[n.val] ∧
      ((handOn o s).port p).actionNotices[n.val] = ((informAction o.source u n).port p).actionNotices[n.val] := by
  obtain ⟨v, hv, hva, hvp⟩ := handOn_informs o s
  obtain ⟨u, hua, hup, ha, hp⟩ := informActions_at o.source n v
  refine ⟨u, hua.trans (hva n), fun p => ?_, hv ▸ ha, hv ▸ hp⟩
  rw [← hvp p]
  exact hup p

/-- Settles O11, from what a hand-off leaves held and what it does to one action. -/
theorem actionsHearEveryOccurrence : Obligations.ActionsHearEveryOccurrence := by
  refine ⟨fun o s => ?_, fun o s n => ?_⟩
  · have hfires : (fun n : ActionNo => (s.action n).firesFor o.source) = fun n : ActionNo =>
        decide ((s.action n).cfg.trigger = some o.source ∧ (s.action n).state = .idle ∧
          (s.action n).cfg.kind = .immediate) :=
      funext fun n => Bool.eq_iff_iff.2 ((Action.firesFor_iff _ _).trans decide_eq_true_iff.symm)
    have hheld := handOn_held o s
    simp only [handOn_reports, allActions_eq_finRange, flatMap_guarded, hfires] at hheld
    exact hheld
  · obtain ⟨u, hua, hup, ha, hp⟩ := handOn_at o s n
    rw [← hua]
    refine ⟨fun ht hs hk => ?_, fun ht hs hk => ⟨?_, fun p => ?_⟩, fun h => ?_, fun h p => ?_⟩
    · rw [ha, informAction_of_immediate ht hs hk, fire_action]
    · rw [ha, informAction_of_graced ht hs hk, enterGrace_action]
    · obtain ⟨htold, hnotice, hsession⟩ := hup p
      obtain ⟨htold', hnotice'⟩ := hp p
      rw [htold', hnotice', informAction_of_graced ht hs hk, enterGrace_port, ← hnotice, ← hsession]
      unfold PortState.hearGrace
      split <;> simp [*]
    · rw [ha, informAction_of_deaf h]
    · obtain ⟨htold, hnotice, hsession⟩ := hup p
      obtain ⟨htold', hnotice'⟩ := hp p
      rw [htold', hnotice', informAction_port h]
      exact ⟨htold, hnotice⟩

/-! ### O12: the answer and the close report -/

theorem answerSource_source_ne {o : Occurrence} {j : SourceNo} (h : j ≠ o.source) (a : Answer) (s : State) :
    (answerSource o a s).source j = s.source j := by
  unfold answerSource
  split
  · exact State.source_updSource_ne _ s h
  · rfl

theorem answerSource_source_cfg (o : Occurrence) (a : Answer) (s : State) (j : SourceNo) :
    ((answerSource o a s).source j).cfg = (s.source j).cfg := by
  by_cases h : j = o.source
  · subst h
    unfold answerSource
    split
    · rw [State.source_updSource_same]
    · rfl
  · rw [answerSource_source_ne h]

theorem answerSource_of_level {o : Occurrence} (h : o.kind = .active ∨ o.kind = .rearm) (a : Answer) (s : State) :
    ((answerSource o a s).source o.source).state = answeredState (s.source o.source).cfg.holdoff a := by
  unfold answerSource
  rw [if_pos h, State.source_updSource_same]

theorem answerSource_of_other {o : Occurrence} (h : ¬(o.kind = .active ∨ o.kind = .rearm)) (a : Answer) (s : State) :
    answerSource o a s = s := if_neg h

theorem handOn_source_of_route {o : Occurrence} {r : RouteNo} (h : o.route = some r) (s : State) (j : SourceNo) :
    (handOn o s).source j = (answerSource o (offer o r s).1 (offer o r s).2).source j := by
  rw [handOn_source, h]

theorem handOn_source_of_none {o : Occurrence} (h : o.route = none) (s : State) (j : SourceNo) :
    (handOn o s).source j = (answerSource o .routeNone s).source j := by
  rw [handOn_source, h]

theorem handOn_source_ne {o : Occurrence} {j : SourceNo} (hj : j ≠ o.source) (s : State) :
    (handOn o s).source j = s.source j := by
  cases h : o.route with
  | none => rw [handOn_source_of_none h, answerSource_source_ne hj]
  | some r => rw [handOn_source_of_route h, answerSource_source_ne hj, offer_source]

theorem handOn_source_of_other {o : Occurrence} (hk : ¬(o.kind = .active ∨ o.kind = .rearm)) (s : State) (j : SourceNo) :
    (handOn o s).source j = s.source j := by
  cases h : o.route with
  | none => rw [handOn_source_of_none h, answerSource_of_other hk]
  | some r => rw [handOn_source_of_route h, answerSource_of_other hk, offer_source]

/-- The next state of a level source, by the answer (R11). -/
theorem answeredState_eq (holdoff : Nat) (a : Answer) :
    answeredState holdoff a =
      match a with
      | .new q => .raised (some q)
      | .coalesced q => .raised (some q)
      | .lost => .holdoff (if holdoff = 0 then 10000 else holdoff * 10000)
      | .routeNone => .raised none := by
  cases a <;> rfl

theorem takeCloseReport_of_other {q : Seq} {i : SourceNo} {s : State} (h : (s.source i).state ≠ .raised (some q))
    (time : Time) : takeCloseReport q i time s = s := if_neg h

theorem takeCloseReport_of_inactive {q : Seq} {i : SourceNo} {s : State} (h : (s.source i).state = .raised (some q))
    (ha : ¬s.lineActive i = true) (time : Time) :
    takeCloseReport q i time s = s.updSource i fun t => { t with state := .watch } := by
  unfold takeCloseReport
  rw [if_pos h, if_neg ha]

theorem takeCloseReport_of_holdoff {q : Seq} {i : SourceNo} {s : State} (h : (s.source i).state = .raised (some q))
    (ha : s.lineActive i = true) (hh : (s.source i).cfg.holdoff ≠ 0) (time : Time) :
    takeCloseReport q i time s = s.updSource i fun t => { t with state := .holdoff (t.cfg.holdoff * 10000) } := by
  unfold takeCloseReport
  rw [if_pos h, if_pos ha, if_neg hh]
  rfl

theorem takeCloseReport_of_rearm {q : Seq} {i : SourceNo} {s : State} (h : (s.source i).state = .raised (some q))
    (ha : s.lineActive i = true) (hh : (s.source i).cfg.holdoff = 0) (time : Time) :
    takeCloseReport q i time s = occur i .rearm time (s.updSource i fun t => { t with state := .raised none }) := by
  unfold takeCloseReport
  rw [if_pos h, if_pos ha, if_pos hh]

/-- Updates of one source by functions that agree on it are equal. -/
theorem State.updSource_congr {i : SourceNo} {f g : Source → Source} {s : State} (h : f (s.source i) = g (s.source i)) :
    s.updSource i f = s.updSource i g := by
  have : f s.sources[i.val] = g s.sources[i.val] := h
  simp [State.updSource, Table.update, this]

/-- Settles O12: the answer reaches the source of the occurrence alone, and a close report the source that waits for it. -/
theorem answerDecidesTheLevelSource : Obligations.AnswerDecidesTheLevelSource := by
  refine ⟨fun o s => ⟨fun j hj => handOn_source_ne hj s, fun ha hr => ?_, (handOn_kept o s).sourceCfg _, fun r hr => ?_,
    fun hn => ?_, fun r hr hk => ?_⟩, ?_⟩
  · rw [handOn_source_of_other (by simp [ha, hr])]
  · have h := handOn_keeps o s
    rw [hr] at h
    exact h
  · have h := handOn_keeps o s
    rw [hn] at h
    obtain ⟨hstore, hroutes, hhistory⟩ := h
    refine ⟨hstore, hroutes, hhistory, fun hk => ?_⟩
    rw [handOn_source_of_none hn, answerSource_of_level hk]
    rfl
  · have hstate : ((handOn o s).source o.source).state =
        answeredState (s.source o.source).cfg.holdoff (offer o r s).1 := by
      rw [handOn_source_of_route hr, answerSource_of_level hk, offer_source]
    exact hstate.trans (answeredState_eq _ _)
  · intro q i time s cfg active
    have hactive : s.lineActive i = true ↔ active := s.lineActive_iff i
    refine ⟨fun h => takeCloseReport_of_other h time, fun h => ⟨fun ha => ?_, fun ha hh => ?_, fun ha hh => ?_⟩⟩
    · exact takeCloseReport_of_inactive h (hactive.not.2 ha) time
    · rw [takeCloseReport_of_holdoff h (hactive.2 ha) hh.ne' time]
      exact State.updSource_congr rfl
    · rw [takeCloseReport_of_rearm h (hactive.2 ha) hh time]
      unfold occur
      rw [State.source_updSource_same]

end Sys2Proof.Machine

namespace Sys2Proof.Machine

/-! ## Sessions lost and resets -/

/-! ### O42: a session loss -/

/-- The routes of a lost port that pass to the other port, in ascending number (R106). -/
def movedRoutes (p : Port) (s : State) : List RouteNo :=
  allRoutes.filter fun r =>
    (s.route r).owner = some p ∧ (s.route r).cfg.failover = true ∧ (s.port (otherPort p)).session = .up

theorem mem_movedRoutes {p : Port} {s : State} {r : RouteNo} :
    r ∈ movedRoutes p s ↔
      (s.route r).owner = some p ∧ (s.route r).cfg.failover = true ∧ (s.port (otherPort p)).session = .up := by
  simp [movedRoutes, allRoutes_mem]

theorem movedRoutes_pairwise (p : Port) (s : State) : (movedRoutes p s).Pairwise (· < ·) :=
  List.Pairwise.filter _ (by decide)

theorem movedRoutes_nodup (p : Port) (s : State) : (movedRoutes p s).Nodup :=
  (movedRoutes_pairwise p s).imp fun h => ne_of_lt h

theorem filter_failsOver (p : Port) (f : PortState → PortState) (s : State) :
    allRoutes.filter (State.failsOver p (returnBatches p (s.updPort p f))) = movedRoutes p s :=
  List.filter_congr fun r _ => Bool.eq_iff_iff.2 ((failsOver_iff p f s r).trans decide_eq_true_iff.symm)

/-- The part after a loss, before its conditions are raised: the port CLOSED, its batches returned, its routes moved. -/
def afterFailover (p : Port) (schedule : Schedule) (s : State) : State :=
  (movedRoutes p s).foldl (failOver (otherPort p)) (returnBatches p (s.updPort p (PortState.closed schedule)))

theorem raise_foldl_reports (l : List (SourceNo × Half)) (s : State) :
    l.foldl (fun u c => u.raise c.1 c.2) s = { s with held := s.held ++ l.flatMap fun c => s.reports c.1 c.2 } :=
  raise_foldl l s

theorem afterFailover_keeps (p : Port) (schedule : Schedule) (s : State) :
    (afterFailover p schedule s).held = s.held ∧ (afterFailover p schedule s).sources = s.sources ∧
      (afterFailover p schedule s).lines = s.lines ∧ (afterFailover p schedule s).store = s.store ∧
      (afterFailover p schedule s).history = s.history ∧ (afterFailover p schedule s).actions = s.actions ∧
      (afterFailover p schedule s).timebase = s.timebase :=
  failOver_foldl_keeps (otherPort p) (movedRoutes p s) (returnBatches p (s.updPort p (PortState.closed schedule)))

theorem afterFailover_reports (p : Port) (schedule : Schedule) (s : State) (i : SourceNo) (detail : Half) :
    (afterFailover p schedule s).reports i detail = s.reports i detail := by
  obtain ⟨-, hsources, -, -, -, -, htime⟩ := afterFailover_keeps p schedule s
  unfold State.reports State.source
  rw [hsources, htime]

/-- A loss moves routes and raises conditions, and counts the use of the free value (log 7). -/
theorem loseSession_eq (p : Port) (cause : LossCause) (schedule : Schedule) (s : State) :
    loseSession p cause schedule s =
      { afterFailover p schedule s with
        held := s.held ++ (lossConditions p cause (movedRoutes p s) (linkDownAt s (movedRoutes p s))).flatMap
          fun c => s.reports c.1 c.2
        arrivals := s.arrivals + 1 } := by
  unfold loseSession
  simp only [filter_failsOver]
  rw [raise_foldl_reports]
  change { afterFailover p schedule s with
    held := (afterFailover p schedule s).held ++ (lossConditions p cause (movedRoutes p s)
      (linkDownAt s (movedRoutes p s))).flatMap fun c : SourceNo × Half => (afterFailover p schedule s).reports c.1 c.2
    arrivals := s.arrivals + 1 } = _
  simp only [afterFailover_reports, (afterFailover_keeps p schedule s).1]

theorem otherPort_ne (p : Port) : p ≠ otherPort p := by cases p <;> decide

theorem afterFailover_port_same (p : Port) (schedule : Schedule) (s : State) :
    (afterFailover p schedule s).port p = (s.port p).closed schedule := by
  unfold afterFailover
  rw [failOver_foldl_port_ne _ _ (otherPort_ne p)]
  exact State.port_updPort_same p _ s

/-- The other port is as it was before the failover reaches it. -/
theorem returnBatches_closed_port_other (p : Port) (schedule : Schedule) (s : State) :
    (returnBatches p (s.updPort p (PortState.closed schedule))).port (otherPort p) = s.port (otherPort p) :=
  State.port_updPort_ne _ s (otherPort_ne p).symm

theorem afterFailover_notice (p : Port) (schedule : Schedule) (s : State) (r : RouteNo) :
    ((afterFailover p schedule s).port (otherPort p)).routeNotices[r.val] =
      if r ∈ movedRoutes p s then .gained else (s.port (otherPort p)).routeNotices[r.val] := by
  unfold afterFailover
  rw [failOver_foldl_notice, returnBatches_closed_port_other]

theorem afterFailover_port_other (p : Port) (schedule : Schedule) (s : State) :
    { (afterFailover p schedule s).port (otherPort p) with routeNotices := (s.port (otherPort p)).routeNotices } =
      s.port (otherPort p) := by
  unfold afterFailover
  rw [failOver_foldl_rest, returnBatches_closed_port_other]

/-- A batch returned, with the records' return written out (R26, R92). -/
theorem Route.returnBatch_eq (t : Route) :
    t.returnBatch =
      { t with
        queue := t.queue.map fun x => if x.state = .offered then { x with state := .pending, redelivered := true } else x
        batch := none, timer := none } := by
  unfold Route.returnBatch
  rw [Rec.returned_eq]

theorem Route.giveTo_returnBatch (owner : Option Port) (t : Route) :
    t.returnBatch.giveTo owner = { t.returnBatch with owner := owner, stalled := false } := by
  unfold Route.giveTo Route.returnBatch
  simp only [List.map_map, Function.comp_def, Rec.returned_returned]

theorem afterFailover_route (p : Port) (schedule : Schedule) (s : State) (r : RouteNo) :
    (afterFailover p schedule s).route r =
      if r ∈ movedRoutes p s then { (s.route r).returnBatch with owner := some (otherPort p), stalled := false }
      else if (s.route r).owner = some p then (s.route r).returnBatch else s.route r := by
  unfold afterFailover
  rw [failOver_foldl_route _ _ _ (movedRoutes_nodup p s), returnBatches_route, State.route_updPort]
  split
  next h => rw [if_pos (mem_movedRoutes.1 h).1, Route.giveTo_returnBatch]
  next => rfl

/-- The conditions of a loss as what they leave held: LINK_x_DOWN among the ROUTE_FAILOVER conditions. -/
theorem lossConditions_flatMap (p : Port) (cause : LossCause) (moved : List RouteNo) (place : Nat)
    (f : SourceNo × Half → List Held) :
    (lossConditions p cause moved place).flatMap f =
      (moved.take place).flatMap (fun r => f (54, BitVec.ofNat 16 (r.val + 256 * (portCode (otherPort p)).toNat))) ++
        f (srcLinkDown p, BitVec.ofNat 16 cause.code) ++
        (moved.drop place).flatMap fun r => f (54, BitVec.ofNat 16 (r.val + 256 * (portCode (otherPort p)).toNat)) := by
  unfold lossConditions failoverConditions
  rw [List.flatMap_append, List.flatMap_cons, ← List.map_take, ← List.map_drop, List.flatMap_map, List.flatMap_map,
    List.append_assoc]
  rfl

/-- Settles O42, from the part after the failover and the conditions it raises. -/
theorem sessionLossReturnsAndFailsOver : Obligations.SessionLossReturnsAndFailsOver := by
  intro p cause schedule s u moves returned code report
  have hu : u = _ := loseSession_eq p cause schedule s
  obtain ⟨-, hsources, hlines, hstore, hhistory, hactions, -⟩ := afterFailover_keeps p schedule s
  have hport : ∀ q, u.port q = (afterFailover p schedule s).port q := fun q => by rw [hu]; rfl
  have hroute : ∀ r, u.route r = (afterFailover p schedule s).route r := fun r => by rw [hu]; rfl
  have hmoved : ∀ r, r ∈ movedRoutes p s ↔ moves r := fun r => mem_movedRoutes
  have hreturned : ∀ t : Route, t.returnBatch = returned t := Route.returnBatch_eq
  refine ⟨rfl, ?_, fun r => ⟨fun h => ?_, fun h ho => ?_, fun ho => ?_⟩, fun r => ⟨fun h => ?_, fun h => ?_⟩, ?_,
    ⟨movedRoutes p s, linkDownAt s (movedRoutes p s), hmoved, movedRoutes_pairwise p s, ?_⟩, ?_, ?_, ?_, ?_, ?_⟩
  · rw [hport, afterFailover_port_same]
  · rw [hroute, afterFailover_route, if_pos ((hmoved r).2 h), hreturned]
  · rw [hroute, afterFailover_route, if_neg ((hmoved r).not.2 h), if_pos ho, hreturned]
  · rw [hroute, afterFailover_route, if_neg fun h => ho (mem_movedRoutes.1 h).1, if_neg ho]
  · rw [hport, afterFailover_notice, if_pos ((hmoved r).2 h)]
  · rw [hport, afterFailover_notice, if_neg ((hmoved r).not.2 h)]
  · rw [hport, afterFailover_port_other]
  · rw [hu]
    dsimp only
    rw [lossConditions_flatMap, ← List.append_assoc, ← List.append_assoc]
    have hdown : srcLinkDown p = if p = .A then 51 else 52 := by cases p <;> rfl
    have hcode : cause.code = code := by unfold code; cases cause <;> rfl
    rw [hdown, hcode]
    rfl
  all_goals rw [hu]; assumption

/-! ### O43: the soft reset -/

theorem softReset_line (s : State) (i : LineNo) : (softReset s).line i = Line.restarted (s.line i).raw := by
  simp [softReset, State.line]

theorem softReset_source (s : State) (i : SourceNo) : (softReset s).source i = (s.source i).rebuilt := by
  simp [softReset, State.source]

theorem softReset_route (s : State) (r : RouteNo) : (softReset s).route r = (s.route r).emptied := by
  simp [softReset, State.route]

theorem softReset_action (s : State) (n : ActionNo) : (softReset s).action n = (s.action n).softReset := by
  simp [softReset, State.action]

theorem softReset_history (s : State) : (softReset s).history = { s.history with entries := [] } := by
  unfold softReset; rfl

/-- An action stays FIRED through a soft reset if its output is a level, and is IDLE else (R132). -/
theorem Action.softReset_eq (a : Action) :
    a.softReset =
      { a with
        state :=
          match a.state, a.cfg.shape with
          | .fired cause _, .level => .fired cause none
          | _, _ => .idle } := by
  obtain ⟨cfg, state, graceNo, graceEnd⟩ := a
  unfold Action.softReset
  cases state with
  | idle => rfl
  | grace left => rfl
  | fired cause pulse => dsimp only; cases cfg.shape <;> rfl

theorem Schedule.afterSoftReset_eq (x : Schedule) :
    x.afterSoftReset = if x = .suspended then .suspended else .due := by
  cases x <;> rfl

theorem exec_deviceResetTimeout {p : Port} {s : State} (h : s.running) (hp : (s.port p).resetPending = true)
    (ht : (s.port p).resetTimer ≠ none) : exec (.deviceResetTimeout p) s = .next (softReset s) :=
  (taken_of_running h _).trans (by simp [hp, Option.isSome_iff_ne_none, ht])

/-- Settles O43, block by block. -/
theorem softResetReachesEveryBlock : Obligations.SoftResetReachesEveryBlock := by
  refine ⟨?_, fun p left s hr hp ht => exec_deviceResetTimeout hr hp (by rw [ht]; exact Option.some_ne_none left)⟩
  intro s t
  refine ⟨softReset_line s, fun i => ?_, softReset_held s, softReset_store s, softReset_history s,
    softReset_route s, fun n => ?_, fun q => ?_, softReset_timebase s, softReset_sampleTime s, softReset_seconds s,
    softReset_micro s, softReset_rate1 s, softReset_rate0 s, softReset_pending s, softReset_arrivals s,
    softReset_hardReset s⟩
  · rw [softReset_source]
    exact ⟨rfl, rfl⟩
  · rw [softReset_action]
    generalize s.action n = a
    exact a.softReset_eq
  · rw [softReset_port, PortState.softReset, Schedule.afterSoftReset_eq]

end Sys2Proof.Machine

namespace Sys2Proof.Machine

/-! ### O60: the invariants at reset -/

theorem reset_route (r : RouteNo) : State.reset.route r = Route.initial r := Vector.getElem_ofFn _

theorem reset_source (i : SourceNo) : State.reset.source i = Source.initial i := Vector.getElem_ofFn _

theorem reset_action (n : ActionNo) : State.reset.action n = Action.initial := Vector.getElem_replicate _

theorem reset_port (p : Port) : State.reset.port p = PortState.initial .powerOn := by cases p <;> rfl

theorem reset_queued : State.reset.queued = 0 := by
  simp [State.queued, queuedOn, reset_route, Route.initial]

theorem Source.initial_holdoff_le (i : SourceNo) : (Source.initial i).cfg.holdoff ≤ 255 := by
  unfold Source.initial
  split <;> decide

theorem RouteConfig.initial_priority_le (r : RouteNo) : (RouteConfig.initial r).priority ≤ 3 := by
  unfold RouteConfig.initial
  dsimp only
  split <;> decide

theorem PortState.initial_quietOutsideSession (cause : ResetCause) : (PortState.initial cause).quietOutsideSession := by
  refine ⟨fun _ => ⟨rfl, rfl, rfl, rfl, rfl, rfl, rfl, rfl, rfl, rfl, rfl, rfl⟩, fun h => ?_, fun h => ?_⟩
  · exact absurd h (by simp [PortState.initial])
  · exact absurd h (by simp [PortState.initial])

theorem reset_settingsInRange : State.reset.settingsInRange := by
  refine ⟨fun i => ?_, fun r => ?_, fun n => ?_, fun p => ?_⟩
  · rw [reset_source]
    exact Source.initial_holdoff_le i
  · rw [reset_route]
    exact ⟨RouteConfig.initial_priority_le r, by simp [Route.initial, RouteConfig.initial]⟩
  · rw [reset_action]
    decide
  · rw [reset_port]
    decide

/-- Settles O60: every table entry and port holds its initial value, which is in range and empty. -/
theorem invariantsHoldAtReset : Obligations.InvariantsHoldAtReset := by
  refine ⟨⟨by decide, by decide, fun _ => rfl, ?_⟩, fun r => ?_, fun r => ?_, ⟨by decide, fun k hk => ?_⟩, ?_, fun p => ?_,
    fun p => ?_, fun p => ?_, fun r => ?_, reset_settingsInRange⟩
  · rw [reset_queued]
    rfl
  · rw [reset_route]
    exact ⟨(by decide : 1 ≤ 32), (by decide : 32 ≤ 64), Nat.zero_le 32⟩
  · rw [reset_route]
    exact ⟨Nat.zero_le _, fun x hx => absurd hx List.not_mem_nil⟩
  · exact absurd hk (Nat.not_lt_zero k)
  · show (1 : Seq) ≠ 0
    decide
  · rw [reset_port]
    exact ⟨by decide, fun _ => rfl⟩
  · rw [reset_port]
    exact PortState.initial_quietOutsideSession _
  · rw [reset_port]
    exact ⟨by decide, by decide, by decide⟩
  · rw [reset_route]
    exact ⟨⟨Nat.zero_le _, fun x hx => absurd hx List.not_mem_nil, fun x hx => absurd hx List.not_mem_nil⟩, rfl⟩

end Sys2Proof.Machine

namespace Sys2Proof.Machine

/-! ## Requests -/

theorem answerOk_eq_withReply (p : Port) (code tag : Byte) (fields : List Byte) (s : State) :
    answerOk p code tag fields s = s.withReply p ([code + 0x80, tag, 0x00] ++ fields) := rfl

theorem configChanged_eq (p : Port) (code : Byte) (s : State) :
    configChanged p code s = s.raise 55 (BitVec.ofNat 16 (code.toNat + 256 * (portCode p).toNat)) := rfl

theorem checked_error {α : Type} {value : Except Result α} {r : Result} (h : value = .error r) (p : Port) (code tag : Byte)
    (act : α → State → State) (s : State) : checked p code tag value act s = refuse p code tag r s := by
  rw [h]
  rfl

theorem checked_ok {α : Type} {value : Except Result α} {v : α} (h : value = .ok v) (p : Port) (code tag : Byte)
    (act : α → State → State) (s : State) : checked p code tag value act s = act v s := by
  rw [h]
  rfl

/-- A change of the port that takes the request joins the taking. -/
theorem State.updPort_afterTake (p : Port) (f : PortState → PortState) (s : State) :
    (s.afterTake p).updPort p f = s.updPort p fun P => f { P with accepted := P.accepted.drop 1 } :=
  State.updPort_updPort p _ f s

/-! ### O48: SET-TIME, CLOSE, DORMANT, DEVICE-RESET -/

theorem State.servesFor_iff (s : State) (p : Port) :
    s.servesFor p = true ↔ ∃ r, (s.route r).owner = some p ∧ (s.route r).state = .inService := by
  simp [State.servesFor, allRoutes_mem]

theorem setTimeWith_of_six {fields : List Byte} (h : fields.length = 6) (p : Port) (tag : Byte) (s : State) :
    setTimeWith p tag fields s =
      handOnHeld (configChanged p setTimeCode
        { answerOk p setTimeCode tag (leBytes 6 s.timebase.toNat) s with
          timebase := BitVec.ofNat 48 (leNumber fields) }) := if_pos h

theorem State.port_afterTake_closing (p : Port) (s : State) :
    ((s.afterTake p).port p).closing = (s.port p).closing := by
  cases p <;> rfl

/-- DORMANT finds the port busy: the closing mark is set or one of its routes is in service (R169). -/
theorem dormantBusy_afterTake_iff (p : Port) (s : State) :
    ((s.afterTake p).servesFor p || ((s.afterTake p).port p).closing) = true ↔
      (s.port p).closing = true ∨ ∃ r, (s.route r).owner = some p ∧ (s.route r).state = .inService := by
  rw [Bool.or_eq_true, State.servesFor_iff, State.port_afterTake_closing, or_comm]
  rfl

theorem dormantWith_of_busy {p : Port} {s : State} (h : (s.servesFor p || (s.port p).closing) = true) (tag : Byte) :
    dormantWith p tag [] s = refuse p dormantCode tag .busy s := if_pos h

theorem dormantWith_of_free {p : Port} {s : State} (h : ¬(s.servesFor p || (s.port p).closing) = true) (tag : Byte) :
    dormantWith p tag [] s = s.updPort p (PortState.enterDormant tag) := if_neg h

/-- Settles O48, request by request. -/
theorem timeIsSetAndSessionsAreLeft : Obligations.TimeIsSetAndSessionsAreLeft := by
  intro p tag s answer
  refine ⟨fun b0 b1 b2 b3 b4 b5 h => ?_, fun h => ?_, fun h => ?_, fun h => ?_⟩
  · refine (taken_request_tag h (setTimeWith p)).trans ?_
    rw [setTimeWith_of_six rfl, leNumber_six, configChanged_eq]
    rfl
  · refine (taken_request_tag h (closeWith p)).trans (congrArg Host.Outcome.next ?_)
    exact State.updPort_afterTake p (PortState.beginClose tag) s
  · intro busy
    have hbusy := dormantBusy_afterTake_iff p s
    refine ⟨fun hb => ?_, fun hb => ?_⟩ <;> refine (taken_request_tag h (dormantWith p)).trans ?_
    · rw [dormantWith_of_busy (hbusy.2 hb)]
      rfl
    · rw [dormantWith_of_free (hbusy.not.2 hb), State.updPort_afterTake]
      rfl
  · refine (taken_request_tag h (deviceResetWith p)).trans (congrArg Host.Outcome.next ?_)
    exact State.updPort_afterTake p (PortState.pendReset tag) s

end Sys2Proof.Machine

namespace Sys2Proof.Machine

/-! ### O50: SOURCE-SET -/

/-- The fields of a line source's configuration, read in their order (R18). -/
theorem readSourceSet_of_line {b0 : Byte} (h : b0.toNat < 48) (b1 b2 b3 b4 b5 : Byte) :
    readSourceSet b0 b1 b2 b3 b4 b5 = (do
      let m ← readLineMode b1
      let f ← readLineFilter b2
      let r ← readRouteOrNone b3
      let c ← readFlag b4
      return (⟨b0.toNat, by omega⟩, { mode := m, filter := f, route := r, coalesce := c, holdoff := b5.toNat })) := by
  unfold readSourceSet
  rw [readSource_ok (r := ⟨b0.toNat, by omega⟩) rfl, Result.ok_bind, if_pos h]

/-- The fields of an internal source's configuration, read in their order (R18). -/
theorem readSourceSet_of_internal {b0 : Byte} (h : 48 ≤ b0.toNat) (h' : b0.toNat < 56) (b1 b2 b3 b4 b5 : Byte) :
    readSourceSet b0 b1 b2 b3 b4 b5 = (do
      let m ← readInternalMode b1
      let _ ← readRange 0 0 b2
      let r ← readRouteOrNone b3
      let _ ← readRange 1 1 b4
      let _ ← readRange 0 0 b5
      return (⟨b0.toNat, h'⟩, { mode := m, filter := .none, route := r, coalesce := true, holdoff := 0 })) := by
  unfold readSourceSet
  rw [readSource_ok (r := ⟨b0.toNat, h'⟩) rfl, Result.ok_bind, if_neg (Nat.not_lt.2 h)]

theorem readSourceSet_badSource {b0 : Byte} (h : 56 ≤ b0.toNat) (b1 b2 b3 b4 b5 : Byte) :
    readSourceSet b0 b1 b2 b3 b4 b5 = .error .badSource := by
  unfold readSourceSet
  rw [readSource_bad h]
  rfl

/-- A source's mode out of range (R18). -/
def BadMode (b0 b1 : Byte) : Prop := if b0.toNat < 48 then 5 < b1.toNat else b1.toNat ≠ 0 ∧ b1.toNat ≠ 6

/-- A source's filter out of range (R18). -/
def BadFilter (b0 b2 : Byte) : Prop := if b0.toNat < 48 then 4 < b2.toNat else b2.toNat ≠ 0

/-- The first two fields in range, as the readings that the rest of the check starts from. -/
theorem readSourceSet_of_goodModeAndFilter {b0 b1 b2 : Byte} (h : b0.toNat < 56) (hm : ¬BadMode b0 b1)
    (hf : ¬BadFilter b0 b2) (b3 b4 b5 : Byte) :
    ∃ m f, readSourceSet b0 b1 b2 b3 b4 b5 = (do
      let r ← readRouteOrNone b3
      if b0.toNat < 48 then
        let c ← readFlag b4
        return (⟨b0.toNat, h⟩, { mode := m, filter := f, route := r, coalesce := c, holdoff := b5.toNat })
      else
        let _ ← readRange 1 1 b4
        let _ ← readRange 0 0 b5
        return (⟨b0.toNat, h⟩, { mode := m, filter := .none, route := r, coalesce := true, holdoff := 0 })) := by
  unfold BadMode at hm
  unfold BadFilter at hf
  by_cases hl : b0.toNat < 48
  · rw [if_pos hl] at hm hf
    obtain ⟨m, em⟩ := readLineMode_good hm
    obtain ⟨f, ef⟩ := readLineFilter_good hf
    refine ⟨m, f, ?_⟩
    rw [readSourceSet_of_line hl, em, ef]
    simp only [Result.ok_bind, if_pos hl]
  · rw [if_neg hl] at hm hf
    obtain ⟨m, em⟩ := readInternalMode_good hm
    refine ⟨m, .none, ?_⟩
    rw [readSourceSet_of_internal (Nat.not_lt.1 hl) h, em, readRange_ok ⟨Nat.zero_le _, by omega⟩]
    simp only [Result.ok_bind, if_neg hl]

theorem readSourceSet_badMode {b0 b1 : Byte} (h : b0.toNat < 56) (hm : BadMode b0 b1) (b2 b3 b4 b5 : Byte) :
    readSourceSet b0 b1 b2 b3 b4 b5 = .error .badValue := by
  unfold BadMode at hm
  by_cases hl : b0.toNat < 48
  · rw [if_pos hl] at hm
    rw [readSourceSet_of_line hl, readLineMode_bad hm]
    rfl
  · rw [if_neg hl] at hm
    rw [readSourceSet_of_internal (Nat.not_lt.1 hl) h, readInternalMode_bad hm]
    rfl

theorem readSourceSet_badFilter {b0 b1 b2 : Byte} (h : b0.toNat < 56) (hm : ¬BadMode b0 b1) (hf : BadFilter b0 b2)
    (b3 b4 b5 : Byte) : readSourceSet b0 b1 b2 b3 b4 b5 = .error .badValue := by
  unfold BadMode at hm
  unfold BadFilter at hf
  by_cases hl : b0.toNat < 48
  · rw [if_pos hl] at hm hf
    obtain ⟨m, em⟩ := readLineMode_good hm
    rw [readSourceSet_of_line hl, em, readLineFilter_bad hf]
    rfl
  · rw [if_neg hl] at hm hf
    obtain ⟨m, em⟩ := readInternalMode_good hm
    rw [readSourceSet_of_internal (Nat.not_lt.1 hl) h, em, readRange_bad (by omega)]
    rfl

theorem readSourceSet_badRoute {b0 b1 b2 b3 : Byte} (h : b0.toNat < 56) (hm : ¬BadMode b0 b1) (hf : ¬BadFilter b0 b2)
    (hr : 8 ≤ b3.toNat ∧ b3.toNat ≤ 254) (b4 b5 : Byte) : readSourceSet b0 b1 b2 b3 b4 b5 = .error .badRoute := by
  obtain ⟨m, f, e⟩ := readSourceSet_of_goodModeAndFilter h hm hf b3 b4 b5
  rw [e, readRouteOrNone_bad hr]
  rfl

theorem readSourceSet_badCoalesceOrHoldoff {b0 b1 b2 b3 b4 b5 : Byte} (h : b0.toNat < 56) (hm : ¬BadMode b0 b1)
    (hf : ¬BadFilter b0 b2) (hr : ¬(8 ≤ b3.toNat ∧ b3.toNat ≤ 254))
    (hc : 1 < b4.toNat ∨ (48 ≤ b0.toNat ∧ (b4.toNat = 0 ∨ b5.toNat ≠ 0))) :
    readSourceSet b0 b1 b2 b3 b4 b5 = .error .badValue := by
  obtain ⟨m, f, e⟩ := readSourceSet_of_goodModeAndFilter h hm hf b3 b4 b5
  obtain ⟨r, er⟩ := readRouteOrNone_good hr
  rw [e, er, Result.ok_bind]
  by_cases hl : b0.toNat < 48
  · rw [if_pos hl, readFlag_bad (by omega)]
    rfl
  · rw [if_neg hl]
    by_cases h4 : b4.toNat = 1
    · rw [readRange_ok (by omega), readRange_bad (by omega)]
      rfl
    · rw [readRange_bad (by omega)]
      rfl

/-- A configuration that SOURCE-SET can carry for source `i` (R4, R5, R18). -/
def SourceConfig.fits (i : SourceNo) (c : SourceConfig) : Prop :=
  c.holdoff ≤ 255 ∧
    if i.val < 48 then c.mode ≠ .on
    else (c.mode = .off ∨ c.mode = .on) ∧ c.filter = .none ∧ c.coalesce = true ∧ c.holdoff = 0

/-- The fields of a configuration in range read back as it. -/
theorem readSourceSet_of_codes {i : SourceNo} {c : SourceConfig} (h : c.fits i) :
    readSourceSet (byte i.val) (modeCode c.mode) (filterCode c.filter) (routeCode c.route) (flagCode c.coalesce)
      (byte c.holdoff) = .ok (i, c) := by
  obtain ⟨hh, hc⟩ := h
  have hi : (byte i.val).toNat = i.val := byte_toNat _ (by omega)
  obtain ⟨mode, filter, route, coalesce, holdoff⟩ := c
  dsimp only at hh hc ⊢
  by_cases hl : i.val < 48
  · rw [if_pos hl] at hc
    rw [readSourceSet_of_line (by omega), readLineMode_modeCode _ hc, readLineFilter_filterCode,
      readRouteOrNone_routeCode, readFlag_flagCode]
    simp only [Result.ok_bind, byte_toNat holdoff (by omega), hi]
    rfl
  · rw [if_neg hl] at hc
    obtain ⟨hm, rfl, rfl, rfl⟩ := hc
    have hmode : readInternalMode (modeCode mode) = .ok mode := by obtain rfl | rfl := hm <;> rfl
    rw [readSourceSet_of_internal (by omega) (by omega), hmode, readRouteOrNone_routeCode]
    simp only [Result.ok_bind, hi]
    rfl

theorem State.mayUse_iff (p : Port) (s : State) (route : Option RouteNo) :
    s.mayUse p route = true ↔
      match route with
      | none => True
      | some r => (s.route r).owner = none ∨ (s.route r).owner = some p := by
  cases route <;> simp [State.mayUse]

theorem lineOf_of_lt {i : SourceNo} (h : i.val < 48) : lineOf i = some ⟨i.val, h⟩ := dif_pos h

theorem lineOf_of_not_lt {i : SourceNo} (h : ¬i.val < 48) : lineOf i = none := dif_neg h

/-- The line of a line source restarts; an internal source has none (R3, R20). -/
theorem restartLine_eq (i : SourceNo) (s : State) :
    restartLine i s =
      if h : i.val < 48 then s.updLine ⟨i.val, h⟩ fun l => { raw := l.raw, filter := .unsettled false 0 } else s := by
  unfold restartLine
  by_cases h : i.val < 48
  · rw [lineOf_of_lt h, dif_pos h]
    rfl
  · rw [lineOf_of_not_lt h, dif_neg h]

theorem configureSource_withReply (i : SourceNo) (cfg : SourceConfig) (p : Port) (m : List Byte) (s : State) :
    (configureSource i cfg s).withReply p m = configureSource i cfg (s.withReply p m) := by
  unfold configureSource restartLine
  cases lineOf i <;> rfl

theorem sourceSetChecked_of_forbidden {p : Port} {i : SourceNo} {c : SourceConfig} {s : State}
    (h : ¬s.maySetSource p i c = true) (tag : Byte) :
    sourceSetChecked p tag (i, c) s = refuse p sourceSetCode tag .notOwner s := if_neg h

theorem sourceSetChecked_of_allowed {p : Port} {i : SourceNo} {c : SourceConfig} {s : State}
    (h : s.maySetSource p i c = true) (tag : Byte) :
    sourceSetChecked p tag (i, c) s =
      handOnHeld (configChanged p sourceSetCode (configureSource i c (s.withReply p [0x90, tag, 0x00]))) := by
  rw [← configureSource_withReply]
  exact if_pos h

/-- Settles O50: the checks in their order, and then the permission and the effect of a configuration in range. -/
theorem sourceIsConfigured : Obligations.SourceIsConfigured := by
  intro p tag b0 b1 b2 b3 b4 b5 s h refused badRoute badMode badFilter
  have hexec : exec (.sourceSet p [tag, b0, b1, b2, b3, b4, b5]) s =
      .next (checked p sourceSetCode tag (readSourceSet b0 b1 b2 b3 b4 b5) (sourceSetChecked p tag) (s.afterTake p)) :=
    taken_request_tag h (sourceSetWith p)
  have hrefused : ∀ r, readSourceSet b0 b1 b2 b3 b4 b5 = .error r → refused r.code := fun r hr => by
    rw [checked_error hr] at hexec
    exact hexec
  refine ⟨fun hs => ?_, fun hs hb => ?_, fun hs hm hf hr => ?_, fun hs hm hf hr hc => ?_, fun i c hb hh hc => ?_⟩
  · exact hrefused .badSource (readSourceSet_badSource hs ..)
  · by_cases hm : BadMode b0 b1
    · exact hrefused .badValue (readSourceSet_badMode hs hm ..)
    · exact hrefused .badValue (readSourceSet_badFilter hs hm (hb.resolve_left hm) ..)
  · exact hrefused .badRoute (readSourceSet_badRoute hs hm hf hr ..)
  · exact hrefused .badValue (readSourceSet_badCoalesceOrHoldoff hs hm hf hr hc)
  · intro passes
    have hread : readSourceSet b0 b1 b2 b3 b4 b5 = .ok (i, c) := by
      obtain ⟨rfl, rfl, rfl, rfl, rfl, rfl⟩ : b0 = _ ∧ b1 = _ ∧ b2 = _ ∧ b3 = _ ∧ b4 = _ ∧ b5 = _ := by simpa using hb
      exact readSourceSet_of_codes ⟨hh, hc⟩
    have hpass : (s.afterTake p).maySetSource p i c = true ↔ passes (s.source i).cfg.route ∧ passes c.route := by
      unfold State.maySetSource
      rw [Bool.and_eq_true, State.mayUse_iff, State.mayUse_iff]
      rfl
    rw [checked_ok hread] at hexec
    refine ⟨fun hp => ?_, fun hp => ?_⟩
    · rw [sourceSetChecked_of_forbidden (hpass.not.2 hp)] at hexec
      exact hexec
    · intro t u
      rw [sourceSetChecked_of_allowed (hpass.2 hp), configChanged_eq, configureSource, restartLine_eq] at hexec
      exact hexec

end Sys2Proof.Machine

namespace Sys2Proof.Machine

/-! ### O55: ACTION-SET, CANCEL-ACTION, SET-OUTPUT, CLEAR-OUTPUT -/

/-- The fields of ACTION-SET, read in their order (R129). -/
theorem readActionSet_eq (b b1 b2 b3 b4 b5 b6 b7 : Byte) :
    readActionSet [b, b1, b2, b3, b4, b5, b6, b7] = (do
      let n ← readOutput b
      let c ← readActionConfig b1 b2 b3 b4 b5 b6 b7
      return (n, c)) := rfl

theorem readActionSet_badOutput {b : Byte} (h : 16 ≤ b.toNat) (b1 b2 b3 b4 b5 b6 b7 : Byte) :
    readActionSet [b, b1, b2, b3, b4, b5, b6, b7] = .error .badValue := by
  rw [readActionSet_eq, readOutput_bad h]
  rfl

/-- With an output in range, a configuration that is refused refuses the request. -/
theorem readActionSet_badConfig {b b1 b2 b3 b4 b5 b6 b7 : Byte} {r : Result} (h : b.toNat < 16)
    (hc : readActionConfig b1 b2 b3 b4 b5 b6 b7 = .error r) :
    readActionSet [b, b1, b2, b3, b4, b5, b6, b7] = .error r := by
  rw [readActionSet_eq, readOutput_ok (r := ⟨b.toNat, h⟩) rfl, hc]
  rfl

theorem readActionConfig_badTrigger {b1 : Byte} {r : Result} (h : readTrigger b1 = .error r) (b2 b3 b4 b5 b6 b7 : Byte) :
    readActionConfig b1 b2 b3 b4 b5 b6 b7 = .error r := by
  unfold readActionConfig
  rw [h]
  rfl

theorem readActionConfig_badKind {b1 b2 : Byte} {t : Option SourceNo} {r : Result} (ht : readTrigger b1 = .ok t)
    (hk : readActionKind t b2 = .error r) (b3 b4 b5 b6 b7 : Byte) :
    readActionConfig b1 b2 b3 b4 b5 b6 b7 = .error r := by
  unfold readActionConfig
  rw [ht, Result.ok_bind, hk]
  rfl

/-- With trigger and kind in range, each later field out of range is BAD_VALUE (R129). -/
theorem readActionConfig_badField {b1 b2 b3 b4 b5 b6 b7 : Byte} {t : Option SourceNo} {k : ActionKind}
    (ht : readTrigger b1 = .ok t) (hk : readActionKind t b2 = .ok k)
    (h : b3.toNat = 0 ∨ 1 < b4.toNat ∨ 3 < b5.toNat ∨ 1 < b6.toNat ∨ 1 < b7.toNat) :
    readActionConfig b1 b2 b3 b4 b5 b6 b7 = .error .badValue := by
  unfold readActionConfig
  rw [ht, Result.ok_bind, hk, Result.ok_bind]
  by_cases h3 : b3.toNat = 0
  · rw [readRange_bad (by omega)]
    rfl
  rw [readRange_ok ⟨by omega, by omega⟩, Result.ok_bind]
  by_cases h4 : 1 < b4.toNat
  · rw [readShape_bad h4]
    rfl
  obtain ⟨s, es⟩ := readShape_good h4
  rw [es, Result.ok_bind]
  by_cases h5 : 3 < b5.toNat
  · rw [readWidth_bad h5]
    rfl
  obtain ⟨w, ew⟩ := readWidth_good h5
  rw [ew, Result.ok_bind]
  by_cases h6 : 1 < b6.toNat
  · rw [readFlag_bad h6]
    rfl
  obtain ⟨p, ep⟩ := readFlag_good h6
  rw [ep, Result.ok_bind, readFlag_bad (by omega)]
  rfl

/-- The fields of a configuration in range read back as it. -/
theorem readActionSet_of_codes (n : ActionNo) {c : ActionConfig} (ht : c.trigger ≠ some 53)
    (hk : c.kind = .manual → c.trigger = none) (hg : 1 ≤ c.grace ∧ c.grace ≤ 255) :
    readActionSet [byte n.val, triggerCode c.trigger, actionKindCode c.kind, byte c.grace, shapeCode c.shape,
      widthCode c.width, flagCode c.activeHigh, flagCode c.pushPull] = .ok (n, c) := by
  have hgrace : (byte c.grace).toNat = c.grace := byte_toNat _ (by omega)
  rw [readActionSet_eq, readActionConfig, readOutput_ok (r := n) (byte_toNat _ (by omega)), readTrigger_triggerCode _ ht, readShape_shapeCode,
    readWidth_widthCode, readFlag_flagCode, readFlag_flagCode, readRange_ok (by omega), hgrace]
  simp only [Result.ok_bind, readActionKind_actionKindCode hk]
  rfl

theorem actionSetChecked_of_busy {p : Port} {n : ActionNo} {s : State} (h : (s.action n).state ≠ .idle) (tag : Byte)
    (c : ActionConfig) : actionSetChecked p tag (n, c) s = refuse p actionSetCode tag .busy s := if_neg h

theorem actionSetChecked_of_idle {p : Port} {n : ActionNo} {s : State} (h : (s.action n).state = .idle) (tag : Byte)
    (c : ActionConfig) :
    actionSetChecked p tag (n, c) s =
      handOnHeld (configChanged p actionSetCode
        ((s.withReply p [0xB0, tag, 0x00]).updAction n fun a => { a with cfg := c })) := if_pos h

/-! #### The effect on the action -/

theorem endGrace_action (n : ActionNo) (outcome : GraceOutcome) (endedBy : Option Port) (s : State) :
    (endGrace n outcome endedBy s).action n =
      { s.action n with graceEnd := some { outcome := outcome, endedBy := endedBy } } := by
  unfold endGrace
  simp only [State.action_updPort, State.action_updAction_same]

theorem cancelActionChecked_of_grace {p : Port} {n : ActionNo} {s : State} {left : Nat}
    (h : (s.action n).state = .grace left) (tag : Byte) :
    cancelActionChecked p tag n s =
      (endGrace n .cancelled (some p) (s.withReply p [0xB2, tag, 0x00, byte n.val, (s.action n).graceNo, 0])).updAction n
        fun a => { a with state := .idle } := by
  unfold cancelActionChecked
  rw [h]
  have hfields : (cancelGrace p n s).cancelFields n = [byte n.val, (s.action n).graceNo, 0] := by
    unfold State.cancelFields cancelGrace
    rw [State.action_updAction_same, endGrace_action]
    rfl
  rw [endGrace_withReply]
  dsimp only
  rw [hfields]
  rfl

theorem cancelActionChecked_of_idle {p : Port} {n : ActionNo} {s : State} (h : (s.action n).state = .idle) (tag : Byte) :
    cancelActionChecked p tag n s = s.withReply p [0xB2, tag, 0x0C, byte n.val, (s.action n).graceNo, 0] := by
  unfold cancelActionChecked State.cancelFields
  rw [h]
  rfl

theorem cancelActionChecked_of_fired {p : Port} {n : ActionNo} {s : State} {cause : FireCause} {pulse : Option Nat}
    (h : (s.action n).state = .fired cause pulse) (tag : Byte) :
    cancelActionChecked p tag n s = s.withReply p [0xB2, tag, 0x09, byte n.val, (s.action n).graceNo, 2] := by
  unfold cancelActionChecked State.cancelFields
  rw [h]
  rfl

/-- SET-OUTPUT replies with the state and the cause that its effect leaves (R127). -/
theorem setOutputChecked_eq {p : Port} {n : ActionNo} {s t : State} (h : setOutput p n s = t) (tag : Byte) :
    setOutputChecked p tag n s =
      handOnHeld (t.withReply p
        [0xB3, tag, 0x00, byte n.val, actionStateCode (t.action n).state, stateCauseCode (t.action n).state]) := by
  subst h
  rfl

theorem setOutputChecked_of_idle {p : Port} {n : ActionNo} {s : State} (h : (s.action n).state = .idle) (tag : Byte) :
    setOutputChecked p tag n s = handOnHeld (fire n .request (s.withReply p [0xB3, tag, 0x00, byte n.val, 2, 3])) := by
  have hset : setOutput p n s = fire n .request s := by
    unfold setOutput
    rw [h]
  rw [setOutputChecked_eq hset, fire_action, fire_withReply]
  rfl

theorem setOutputChecked_of_grace {p : Port} {n : ActionNo} {s : State} {left : Nat}
    (h : (s.action n).state = .grace left) (tag : Byte) :
    setOutputChecked p tag n s =
      handOnHeld (fire n .request (endGrace n .fired (some p) (s.withReply p [0xB3, tag, 0x00, byte n.val, 2, 3]))) := by
  have hset : setOutput p n s = fire n .request (endGrace n .fired (some p) s) := by
    unfold setOutput
    rw [h]
  rw [setOutputChecked_eq hset, fire_action, endGrace_withReply, fire_withReply]
  rfl

theorem setOutputChecked_of_fired {p : Port} {n : ActionNo} {s : State} {cause : FireCause} {pulse : Option Nat}
    (h : (s.action n).state = .fired cause pulse) (tag : Byte) :
    setOutputChecked p tag n s =
      handOnHeld (s.withReply p [0xB3, tag, 0x00, byte n.val, 2, fireCauseCode cause]) := by
  have hset : setOutput p n s = s := by
    unfold setOutput
    rw [h]
  rw [setOutputChecked_eq hset, h]
  rfl

theorem clearOutputChecked_of_fired {p : Port} {n : ActionNo} {s : State} {cause : FireCause} {pulse : Option Nat}
    (h : (s.action n).state = .fired cause pulse) (tag : Byte) :
    clearOutputChecked p tag n s =
      (s.withReply p [0xB4, tag, 0x00]).updAction n fun a => { a with state := .idle } := by
  unfold clearOutputChecked
  rw [h]
  rfl

theorem clearOutputChecked_of_unfired {p : Port} {n : ActionNo} {s : State}
    (h : (s.action n).state = .idle ∨ ∃ left, (s.action n).state = .grace left) (tag : Byte) :
    clearOutputChecked p tag n s = s.withReply p [0xB4, tag, 0x0D] := by
  unfold clearOutputChecked
  obtain h | ⟨left, h⟩ := h <;> rw [h] <;> rfl

/-! #### The requests -/

theorem exec_actionSet {p : Port} {tag : Byte} {fields : List Byte} {s : State}
    (h : Takes p 0x30 (tag :: fields) s) :
    exec (.actionSet p (tag :: fields)) s =
      .next (checked p actionSetCode tag (readActionSet fields) (actionSetChecked p tag) (s.afterTake p)) :=
  taken_request_tag h (actionSetWith p)

theorem exec_cancelAction {p : Port} {tag b : Byte} {s : State} (h : Takes p 0x32 [tag, b] s) :
    exec (.cancelAction p [tag, b]) s =
      .next (checked p cancelActionCode tag (readOutput b) (cancelActionChecked p tag) (s.afterTake p)) :=
  taken_request_tag h (cancelActionWith p)

theorem exec_setOutput {p : Port} {tag b : Byte} {s : State} (h : Takes p 0x33 [tag, b] s) :
    exec (.setOutput p [tag, b]) s =
      .next (checked p setOutputCode tag (readOutput b) (setOutputChecked p tag) (s.afterTake p)) :=
  taken_request_tag h (setOutputWith p)

theorem exec_clearOutput {p : Port} {tag b : Byte} {s : State} (h : Takes p 0x34 [tag, b] s) :
    exec (.clearOutput p [tag, b]) s =
      .next (checked p clearOutputCode tag (readOutput b) (clearOutputChecked p tag) (s.afterTake p)) :=
  taken_request_tag h (clearOutputWith p)

/-- Settles O55: the checks of ACTION-SET in their order, and each request in each state of its action. -/
theorem actionsAreCommanded : Obligations.ActionsAreCommanded := by
  intro p tag b s
  refine ⟨fun b1 b2 b3 b4 b5 b6 b7 h => ?_, fun hb => ⟨fun h => ?_, fun h => ?_, fun h => ?_⟩, fun n hb => ?_⟩
  · intro sets badTrigger badSource
    have hexec : sets = _ := exec_actionSet h
    have hrefused : ∀ r, readActionSet [b, b1, b2, b3, b4, b5, b6, b7] = .error r →
        sets = .next (s.answered p [0xB0, tag, r.code]) := fun r hr => by
      rw [hexec, checked_error hr]
      rfl
    refine ⟨fun hb => ?_, fun hb ht => ?_, fun hb ht => ?_, fun hb ht hs hk => ?_, fun hb ht hs hk hn => ?_,
      fun hb ht hs hk hf => ?_, fun n c hbytes ht hk hg hg' => ?_⟩
    · exact hrefused .badValue (readActionSet_badOutput hb ..)
    · exact hrefused .badTrigger
        (readActionSet_badConfig hb (readActionConfig_badTrigger (readTrigger_actionFired ht) ..))
    · exact hrefused .badSource (readActionSet_badConfig hb (readActionConfig_badTrigger (readTrigger_bad ht) ..))
    · obtain ⟨t, et, -⟩ := readTrigger_good ht hs
      exact hrefused .badValue
        (readActionSet_badConfig hb (readActionConfig_badKind et (readActionKind_bad t hk) ..))
    · obtain ⟨t, et, htnone⟩ := readTrigger_good ht hs
      have htsome : t ≠ none := fun e => hn (htnone.1 e)
      exact hrefused .badTrigger
        (readActionSet_badConfig hb (readActionConfig_badKind et (readActionKind_manualTriggered hk htsome) ..))
    · obtain ⟨t, et, htnone⟩ := readTrigger_good ht hs
      obtain ⟨k, ek⟩ := readActionKind_good (t := t) (hk.imp_right fun h => ⟨h.1, htnone.2 h.2⟩)
      exact hrefused .badValue (readActionSet_badConfig hb (readActionConfig_badField et ek hf))
    · have hread : readActionSet [b, b1, b2, b3, b4, b5, b6, b7] = .ok (n, c) := by
        rw [hbytes]
        exact readActionSet_of_codes n ht hk ⟨hg, hg'⟩
      rw [hexec, checked_ok hread]
      refine ⟨fun hbusy => ?_, fun hidle => ?_⟩
      · rw [actionSetChecked_of_busy (s := s.afterTake p) hbusy]
        rfl
      · rw [actionSetChecked_of_idle (s := s.afterTake p) hidle]
        rfl
  · rw [exec_cancelAction h, checked_error (readOutput_bad hb)]
    rfl
  · rw [exec_setOutput h, checked_error (readOutput_bad hb)]
    rfl
  · rw [exec_clearOutput h, checked_error (readOutput_bad hb)]
    rfl
  · have hbyte : byte n.val = b := byte_of_toNat hb
    subst hbyte
    have hread := readOutput_ok hb
    intro no fires
    refine ⟨fun h => ?_, fun h => ?_, fun h => ?_⟩
    · have hexec := exec_cancelAction h
      rw [checked_ok hread] at hexec
      refine ⟨fun hs => ?_, fun cause pulse hs => ?_, fun left hs => ?_⟩
      · exact hexec.trans (congrArg Host.Outcome.next (cancelActionChecked_of_idle (s := s.afterTake p) hs tag))
      · exact hexec.trans (congrArg Host.Outcome.next (cancelActionChecked_of_fired (s := s.afterTake p) hs tag))
      · exact hexec.trans (congrArg Host.Outcome.next (cancelActionChecked_of_grace (s := s.afterTake p) hs tag))
    · have hexec := exec_setOutput h
      rw [checked_ok hread] at hexec
      refine ⟨fun hs => ?_, fun left hs => ?_, fun cause pulse hs => ?_⟩
      · exact hexec.trans (congrArg Host.Outcome.next (setOutputChecked_of_idle (s := s.afterTake p) hs tag))
      · exact hexec.trans (congrArg Host.Outcome.next (setOutputChecked_of_grace (s := s.afterTake p) hs tag))
      · exact hexec.trans (congrArg Host.Outcome.next (setOutputChecked_of_fired (s := s.afterTake p) hs tag))
    · have hexec := exec_clearOutput h
      rw [checked_ok hread] at hexec
      refine ⟨fun cause pulse hs => ?_, fun hs => ?_⟩
      · exact hexec.trans (congrArg Host.Outcome.next (clearOutputChecked_of_fired (s := s.afterTake p) hs tag))
      · exact hexec.trans (congrArg Host.Outcome.next (clearOutputChecked_of_unfired (s := s.afterTake p) hs tag))

end Sys2Proof.Machine

namespace Sys2Proof.Machine

/-! ## Event records, the timebase and the history -/

/-! ### Queues: the record that folds, the oldest PENDING record, the records a new depth cuts -/

theorem Rec.takes_iff (i : SourceNo) (x : Rec) : x.takes i = true ↔ x.state = .pending ∧ x.source = i := by
  simp [Rec.takes]

/-- The newest record that takes the occurrence folds it (R30). -/
theorem foldNewest_newest {o : Occurrence} {x : Rec} (hx : x.takes o.source = true) {back : List Rec}
    (hback : ∀ y ∈ back, ¬(y.state = .pending ∧ y.source = o.source)) (front : List Rec) :
    foldNewest o (front ++ x :: back) = some (x.seq, front ++ x.fold o :: back) := by
  induction front with
  | nil => rw [List.nil_append, foldNewest, foldNewest_none o back hback]; simp [hx]
  | cons y front ih => rw [List.cons_append, foldNewest, ih]; rfl

/-- A fold changes one record of the queue in its place. -/
theorem foldNewest_some {o : Occurrence} {queue folded : List Rec} {q : Seq} (h : foldNewest o queue = some (q, folded)) :
    ∃ front x back, queue = front ++ x :: back ∧ folded = front ++ x.fold o :: back := by
  induction queue generalizing q folded with
  | nil => cases h
  | cons y queue ih =>
    rw [foldNewest] at h
    cases e : foldNewest o queue with
    | some found =>
      rw [e] at h
      cases h
      obtain ⟨front, x, back, hqueue, hfolded⟩ := ih e
      exact ⟨y :: front, x, back, by rw [hqueue]; rfl, by rw [hfolded]; rfl⟩
    | none =>
      rw [e] at h
      dsimp only at h
      split at h
      · cases h
        exact ⟨[], y, queue, rfl, rfl⟩
      · cases h

/-- The oldest PENDING record leaves its place in the queue. -/
theorem splitOldestPending_some {queue rest : List Rec} {x : Rec} (h : splitOldestPending queue = some (x, rest)) :
    ∃ front back, queue = front ++ x :: back ∧ rest = front ++ back := by
  induction queue generalizing x rest with
  | nil => cases h
  | cons y queue ih =>
    rw [splitOldestPending] at h
    split at h
    · cases h
      exact ⟨[], queue, rfl, rfl⟩
    · obtain ⟨⟨z, left⟩, e, hz⟩ := Option.map_eq_some_iff.1 h
      cases hz
      obtain ⟨front, back, hqueue, hleft⟩ := ih e
      exact ⟨y :: front, back, by rw [hqueue]; rfl, by rw [hleft]; rfl⟩

/-- What the cut leaves stands in the queue in its order. -/
theorem splitPending_sublist (m : Nat) (queue : List Rec) : (splitPending m queue).2.Sublist queue := by
  induction queue generalizing m with
  | nil => cases m <;> exact .slnil
  | cons x queue ih =>
    cases m with
    | zero => exact .refl _
    | succ m =>
      rw [splitPending]
      split
      · exact (ih m).cons x
      · exact (ih (m + 1)).cons_cons x

/-- No record is lost or doubled by the cut. -/
theorem splitPending_length (m : Nat) (queue : List Rec) :
    (splitPending m queue).1.length + (splitPending m queue).2.length = queue.length := by
  induction queue generalizing m with
  | nil => cases m <;> rfl
  | cons x queue ih =>
    cases m with
    | zero => exact Nat.zero_add _
    | succ m =>
      rw [splitPending]
      split
      · have := ih m
        simp only [List.length_cons]
        omega
      · have := ih (m + 1)
        simp only [List.length_cons]
        omega

theorem offeredCount_cons (x : Rec) (queue : List Rec) :
    offeredCount (x :: queue) = offeredCount queue + if x.state = .offered then 1 else 0 := by
  unfold offeredCount
  rw [List.filter_cons]
  split <;> simp_all

theorem offeredCount_le_length (queue : List Rec) : offeredCount queue ≤ queue.length := List.length_filter_le ..

/-- The cut takes as many PENDING records as it is asked for, while there are any. -/
theorem splitPending_cut_length (m : Nat) (queue : List Rec) :
    (splitPending m queue).1.length = min m (queue.length - offeredCount queue) := by
  induction queue generalizing m with
  | nil => cases m <;> simp [splitPending]
  | cons x queue ih =>
    have hle := offeredCount_le_length queue
    cases m with
    | zero => simp [splitPending]
    | succ m =>
      rw [splitPending, offeredCount_cons]
      split
      next hp =>
        have := ih m
        simp only [hp, List.length_cons, reduceCtorEq, if_false]
        omega
      next hp =>
        have ho : x.state = .offered := by cases hs : x.state <;> simp_all
        have := ih (m + 1)
        simp only [ho, List.length_cons, if_true]
        omega

/-- A depth that the OFFERED records meet is met by the queue that the cut leaves (R60, R61). -/
theorem cutToDepth_fits {depth : Nat} {queue : List Rec} (h : offeredCount queue ≤ depth) :
    (cutToDepth depth queue).2.length ≤ depth := by
  have hcut := splitPending_cut_length (queue.length - depth) queue
  have hall := splitPending_length (queue.length - depth) queue
  have hle := offeredCount_le_length queue
  unfold cutToDepth
  omega

/-! ### The offer, case by case (R29) -/

/-- The fold that an offer makes, if it makes one (R29, R30). -/
def foldOffered (o : Occurrence) (r : RouteNo) (s : State) : Option (Seq × List Rec) :=
  if o.coalesce then foldNewest o (s.route r).queue else none

theorem foldOffered_of_nothingToFold {o : Occurrence} {r : RouteNo} {s : State} (h : NothingToFold o r s) :
    foldOffered o r s = none := nothingToFold_foldNewest o r s h

theorem offer_of_fold {o : Occurrence} {r : RouteNo} {s : State} {q : Seq} {queue : List Rec}
    (h : foldOffered o r s = some (q, queue)) :
    offer o r s = (.coalesced q, s.updRoute r fun t => { t with queue := queue }) := by
  unfold foldOffered at h
  unfold offer
  rw [h]

theorem offer_of_unavailable {o : Occurrence} {r : RouteNo} {s : State} (h : foldOffered o r s = none)
    (ha : ¬RecordAvailable o s) : offer o r s = (.lost, s.updRoute r (Route.lose 1)) := by
  unfold foldOffered at h
  unfold offer
  rw [h]
  exact if_neg fun hs => ha ((available_iff o s).1 hs)

/-- With a record available, the answer of the Route Table decides (R29). -/
theorem offer_of_available {o : Occurrence} {r : RouteNo} {s : State} (h : foldOffered o r s = none)
    (ha : RecordAvailable o s) :
    offer o r s =
      if (makeRoom o r s).1 = true then (.new (makeRoom o r s).2.store.nextSeq, createRec o r (makeRoom o r s).2)
      else (.lost, (makeRoom o r s).2) := by
  unfold foldOffered at h
  unfold offer
  rw [h]
  dsimp only
  rw [if_pos ((available_iff o s).2 ha)]
  obtain ⟨room, u⟩ := makeRoom o r s
  cases room <;> rfl

theorem offer_of_room {o : Occurrence} {r : RouteNo} {s u : State} (h : foldOffered o r s = none) (ha : RecordAvailable o s)
    (hr : makeRoom o r s = (true, u)) : offer o r s = (.new u.store.nextSeq, createRec o r u) := by
  rw [offer_of_available h ha, hr]
  rfl

theorem offer_of_noRoom {o : Occurrence} {r : RouteNo} {s u : State} (h : foldOffered o r s = none)
    (ha : RecordAvailable o s) (hr : makeRoom o r s = (false, u)) : offer o r s = (.lost, u) := by
  rw [offer_of_available h ha, hr]
  rfl

theorem makeRoom_of_room {o : Occurrence} {r : RouteNo} {s : State} (h : (s.route r).queue.length < (s.route r).cfg.depth) :
    makeRoom o r s = (true, s) := if_pos h

/-- A full DROP_OLD route after its oldest PENDING record has made room (R34, R50, R52). -/
def afterDrop (o : Occurrence) (r : RouteNo) (x : Rec) (rest : List Rec) (s : State) : State :=
  ((overflowReported o r s).updRoute r fun t => Route.lose x.count { t with queue := rest }).closeAll .dropped s.timebase [x]

theorem overflowReported_timebase (o : Occurrence) (r : RouteNo) (s : State) :
    (overflowReported o r s).timebase = s.timebase := by
  rw [overflowReported_held]

theorem makeRoom_of_dropOld {o : Occurrence} {r : RouteNo} {s : State} {x : Rec} {rest : List Rec}
    (hf : (s.route r).cfg.depth ≤ (s.route r).queue.length) (hp : (s.route r).cfg.policy = .dropOld)
    (hx : splitOldestPending (s.route r).queue = some (x, rest)) : makeRoom o r s = (true, afterDrop o r x rest s) := by
  unfold makeRoom
  dsimp only
  rw [if_neg (Nat.not_lt.2 hf), hp, hx, overflowReported_eq]
  dsimp only
  rw [overflowReported_timebase]
  rfl

theorem makeRoom_of_noneToDrop {o : Occurrence} {r : RouteNo} {s : State}
    (hf : (s.route r).cfg.depth ≤ (s.route r).queue.length)
    (hn : (s.route r).cfg.policy = .dropNew ∨ splitOldestPending (s.route r).queue = none) :
    makeRoom o r s = (false, (overflowReported o r s).updRoute r (Route.lose 1)) := by
  unfold makeRoom
  dsimp only
  rw [if_neg (Nat.not_lt.2 hf), overflowReported_eq]
  obtain hn | hn := hn <;> rw [hn]
  cases (s.route r).cfg.policy <;> rfl

/-- What a request for room can answer (R48 to R51). -/
theorem makeRoom_cases (o : Occurrence) (r : RouteNo) (s : State) :
    ((s.route r).queue.length < (s.route r).cfg.depth ∧ makeRoom o r s = (true, s)) ∨
      (∃ x rest, splitOldestPending (s.route r).queue = some (x, rest) ∧
        (s.route r).cfg.depth ≤ (s.route r).queue.length ∧ makeRoom o r s = (true, afterDrop o r x rest s)) ∨
      makeRoom o r s = (false, (overflowReported o r s).updRoute r (Route.lose 1)) := by
  obtain hroom | hfull := Nat.lt_or_ge (s.route r).queue.length (s.route r).cfg.depth
  · exact .inl ⟨hroom, makeRoom_of_room hroom⟩
  · cases hp : (s.route r).cfg.policy with
    | dropNew => exact .inr (.inr (makeRoom_of_noneToDrop hfull (.inl hp)))
    | dropOld =>
      cases hx : splitOldestPending (s.route r).queue with
      | none => exact .inr (.inr (makeRoom_of_noneToDrop hfull (.inr hx)))
      | some dropped => exact .inr (.inl ⟨dropped.1, dropped.2, rfl, hfull, makeRoom_of_dropOld hfull hp hx⟩)

/-- Everything that an offer can do (R29). -/
theorem offer_cases (o : Occurrence) (r : RouteNo) (s : State) :
    (∃ front x back, (s.route r).queue = front ++ x :: back ∧
        (offer o r s).2 = s.updRoute r fun t => { t with queue := front ++ x.fold o :: back }) ∨
      (offer o r s).2 = s.updRoute r (Route.lose 1) ∨
      (RecordAvailable o s ∧ (s.route r).queue.length < (s.route r).cfg.depth ∧ (offer o r s).2 = createRec o r s) ∨
      (∃ front x back, (s.route r).queue = front ++ x :: back ∧ RecordAvailable o s ∧
        (s.route r).cfg.depth ≤ (s.route r).queue.length ∧
        (offer o r s).2 = createRec o r (afterDrop o r x (front ++ back) s)) ∨
      (offer o r s).2 = (overflowReported o r s).updRoute r (Route.lose 1) := by
  cases hfold : foldOffered o r s with
  | some folded =>
    left
    obtain ⟨q, queue⟩ := folded
    have hnew : foldNewest o (s.route r).queue = some (q, queue) := by
      unfold foldOffered at hfold
      split at hfold
      · exact hfold
      · cases hfold
    obtain ⟨front, x, back, hqueue, rfl⟩ := foldNewest_some hnew
    exact ⟨front, x, back, hqueue, by rw [offer_of_fold hfold]⟩
  | none =>
    right
    by_cases ha : RecordAvailable o s
    · right
      obtain ⟨hroom, hm⟩ | ⟨x, rest, hx, hfull, hm⟩ | hm := makeRoom_cases o r s
      · exact .inl ⟨ha, hroom, by rw [offer_of_room hfold ha hm]⟩
      · obtain ⟨front, back, hqueue, rfl⟩ := splitOldestPending_some hx
        exact .inr (.inl ⟨front, x, back, hqueue, ha, hfull, by rw [offer_of_room hfold ha hm]⟩)
      · exact .inr (.inr (by rw [offer_of_noRoom hfold ha hm]))
    · exact .inl (by rw [offer_of_unavailable hfold ha])

/-! ### O13, O14: folded, or lost without a record -/

/-- Settles O13: the record that takes the occurrence and has none behind it that does is the one that folds it. -/
theorem occurrenceFoldsIntoTheNewest : Obligations.OccurrenceFoldsIntoTheNewest := by
  intro o r s front x back hc hqueue hstate hsource hback
  refine offer_of_fold ?_
  rw [foldOffered, if_pos hc, hqueue]
  exact foldNewest_newest ((Rec.takes_iff _ x).2 ⟨hstate, hsource⟩) hback front

/-- Settles O14. -/
theorem occurrenceIsLostWithoutARecord : Obligations.OccurrenceIsLostWithoutARecord := by
  intro o r s hn ha
  exact offer_of_unavailable (foldOffered_of_nothingToFold hn) ha

end Sys2Proof.Machine

namespace Sys2Proof.Machine

/-! ### O51: records close as one event -/

/-- What a full ring keeps: its newest 64 entries (R39). -/
def newest64 (entries : List HistEntry) : List HistEntry := entries.drop (entries.length - 64)

theorem newest64_of_le {entries : List HistEntry} (h : entries.length ≤ 64) : newest64 entries = entries := by
  rw [newest64, Nat.sub_eq_zero_of_le h, List.drop_zero]

theorem newest64_length_le (entries : List HistEntry) : (newest64 entries).length ≤ 64 := by
  rw [newest64, List.length_drop]
  omega

/-- Entries that the ring has lost already do not count. -/
theorem newest64_newest64_append (entries more : List HistEntry) :
    newest64 (newest64 entries ++ more) = newest64 (entries ++ more) := by
  have hdrop : newest64 entries ++ more = (entries ++ more).drop (entries.length - 64) :=
    (List.drop_append_of_le_length (Nat.sub_le ..)).symm
  rw [hdrop]
  have hfrom : entries.length - 64 + (((entries ++ more).drop (entries.length - 64)).length - 64) =
      (entries ++ more).length - 64 := by
    simp only [List.length_drop, List.length_append]
    omega
  unfold newest64
  rw [List.drop_drop, hfrom]

/-- The history entry of a record that closes with this close number (R39). -/
def Rec.closedEntry (out : CloseOutcome) (time : Time) (x : Rec) (no : Half) : HistEntry :=
  { closeNo := no, seq := x.seq, source := x.source, kind := x.kind, count := x.count, outcome := out, first := x.first,
    closeTime := time }

theorem History.write_eq {h : History} (hle : h.entries.length ≤ 64) (out : CloseOutcome) (time : Time) (x : Rec) :
    h.write out time x =
      { entries := newest64 (h.entries ++ [x.closedEntry out time h.counter]), counter := h.counter + 1 } := by
  refine (History.mk.injEq ..).mpr ⟨(History.write_entries out time x h).trans ?_, rfl⟩
  change _ ++ [x.closedEntry out time h.counter] = _
  split
  next hlt =>
    rw [newest64_of_le]
    simp only [List.length_append, List.length_singleton]
    omega
  next hfull =>
    have hlen : h.entries.length = 64 := by omega
    simp [newest64, hlen, List.drop_append_of_le_length]

/-- Writing the entries of several records, one after the other, keeps the newest 64 of all (R39). -/
theorem History.foldl_write {h : History} (hle : h.entries.length ≤ 64) (out : CloseOutcome) (time : Time) (xs : List Rec) :
    xs.foldl (fun h x => h.write out time x) h =
      { entries := newest64 (h.entries ++ xs.mapIdx fun k x => x.closedEntry out time (h.counter + BitVec.ofNat 16 k))
        counter := h.counter + BitVec.ofNat 16 xs.length } := by
  induction xs generalizing h with
  | nil => simp [newest64_of_le hle]
  | cons x xs ih =>
    have hno : ∀ k : Nat, h.counter + 1 + BitVec.ofNat 16 k = h.counter + BitVec.ofNat 16 (k + 1) := fun k => by
      rw [BitVec.ofNat_add, BitVec.add_comm (BitVec.ofNat 16 k), BitVec.add_assoc]
      rfl
    rw [List.foldl_cons, History.write_eq hle, ih (newest64_length_le _)]
    simp only [hno, newest64_newest64_append, List.append_assoc, List.singleton_append, List.mapIdx_cons, List.length_cons]
    simp

/-- The free counts and the threshold after `n` records have become FREE (R28, R33). -/
theorem Store.foldl_free {st : Store} (h : st.freeReserve ≤ 8) (xs : List Rec) :
    let general := st.freeGeneral + (xs.length - (8 - st.freeReserve))
    xs.foldl (fun st _ => st.free) st =
      { st with
        freeReserve := min 8 (st.freeReserve + xs.length)
        freeGeneral := general
        lowArmed := st.lowArmed || (decide (st.freeGeneral ≤ 32) && decide (33 ≤ general)) } := by
  induction xs generalizing st with
  | nil =>
    obtain ⟨general, reserve, armed, seq⟩ := st
    have hr : min 8 reserve = reserve := Nat.min_eq_right h
    have hlow : (decide (general ≤ 32) && decide (33 ≤ general)) = false := by
      rw [← Bool.decide_and, decide_eq_false_iff_not]
      omega
    simp [hr, hlow]
  | cons x xs ih =>
    obtain ⟨general, reserve, armed, seq⟩ := st
    rw [List.foldl_cons, Store.free_eq]
    dsimp only at h ⊢
    split
    next hlt =>
      rw [ih (by dsimp only; omega)]
      have hleft : xs.length - (8 - (reserve + 1)) = xs.length + 1 - (8 - reserve) := by omega
      have hsum : reserve + 1 + xs.length = reserve + (xs.length + 1) := by omega
      simp only [List.length_cons, hleft, hsum]
    next hfull =>
      have h8 : reserve = 8 := by omega
      subst h8
      rw [ih (by dsimp only; omega)]
      simp only [List.length_cons, Store.mk.injEq]
      refine ⟨by omega, by omega, ?_, trivial⟩
      cases armed with
      | true => rfl
      | false =>
        rw [Bool.eq_iff_iff]
        simp only [Bool.or_eq_true, Bool.and_eq_true, decide_eq_true_eq, beq_iff_eq, Bool.false_eq_true, false_or]
        omega

/-- Settles O51, from the ring and the pools after any number of records. -/
theorem recordsCloseAsOneEvent : Obligations.RecordsCloseAsOneEvent := by
  intro outcome time xs s hring hreserve t general all
  have ht : t = _ := closeAll_eq outcome time xs s
  refine ⟨?_, ?_, ?_⟩
  · rw [ht]
    exact History.foldl_write hring outcome time xs
  · rw [ht]
    exact Store.foldl_free hreserve xs
  · rw [ht]
    rfl

end Sys2Proof.Machine

namespace Sys2Proof.Machine

/-! ### O17, O18: records created, and room made for them -/

/-- What the Event Store is after a record has been taken (R27, R28, R33). -/
theorem Store.take_eq (st : Store) :
    st.take =
      { freeGeneral := if 0 < st.freeGeneral then st.freeGeneral - 1 else 0
        freeReserve := if 0 < st.freeGeneral then st.freeReserve else st.freeReserve - 1
        lowArmed := if st.lowArmed = true ∧ st.freeGeneral = 17 then false else st.lowArmed
        nextSeq := if st.nextSeq = 4294967295#32 then 1 else st.nextSeq + 1 } := by
  obtain ⟨general, reserve, armed, seq⟩ := st
  unfold Store.take Seq.next
  by_cases h : 0 < general
  · by_cases h17 : general = 17 <;> cases armed <;> simp [h, h17]
  · have h0 : general = 0 := by omega
    simp [h0]

theorem Store.takeReportsLow_iff (st : Store) :
    st.takeReportsLow = true ↔ st.lowArmed = true ∧ st.freeGeneral = 17 := by
  simp [Store.takeReportsLow]

/-- A record created: the tail of the queue, the store, and the report of STORE_LOW, behind what is held (R25, R32, R33). -/
theorem createRec_eq (o : Occurrence) (r : RouteNo) (s : State) :
    createRec o r s =
      { (s.updRoute r fun t => { t with queue := t.queue ++ [newRec o r s.store.nextSeq] }) with
        store := s.store.take
        held := if s.store.lowArmed = true ∧ s.store.freeGeneral = 17 then (s.raise 49 16).held else s.held } := by
  unfold createRec
  dsimp only
  by_cases h : s.store.lowArmed = true ∧ s.store.freeGeneral = 17
  · have hdetail : detailOf s.store.take.freeGeneral 0 = 16 := by
      rw [Store.take_eq, h.2]
      rfl
    rw [if_pos ((Store.takeReportsLow_iff _).2 h), if_pos h, hdetail, State.raise_eq_reports, State.raise_eq_reports]
    rfl
  · rw [if_neg fun hl => h ((Store.takeReportsLow_iff _).1 hl), if_neg h]
    rfl

theorem createRec_route (o : Occurrence) (r q : RouteNo) (s : State) :
    (createRec o r s).route q =
      if q = r then { s.route r with queue := (s.route r).queue ++ [newRec o r s.store.nextSeq] } else s.route q := by
  rw [createRec_eq]
  exact State.route_updRoute r q _ s

theorem createRec_store (o : Occurrence) (r : RouteNo) (s : State) : (createRec o r s).store = s.store.take := by
  rw [createRec_eq]

theorem createRec_history (o : Occurrence) (r : RouteNo) (s : State) : (createRec o r s).history = s.history := by
  rw [createRec_eq]
  rfl

/-- Settles O18: with room the offer is the creation of the record. -/
theorem recordIsCreated : Obligations.RecordIsCreated := by
  intro o r s hn ha hroom low
  rw [offer_of_room (foldOffered_of_nothingToFold hn) ha (makeRoom_of_room hroom), createRec_eq, Store.take_eq]
  rfl

theorem overflowReported_store (o : Occurrence) (r : RouteNo) (s : State) : (overflowReported o r s).store = s.store := by
  rw [overflowReported_held]

theorem overflowReported_history (o : Occurrence) (r : RouteNo) (s : State) :
    (overflowReported o r s).history = s.history := by
  rw [overflowReported_held]

/-- A record dropped to make room: the queue and the tally, the ring, the store, the overflow report and then the close report
(R34, R50, R52). -/
theorem afterDrop_eq (o : Occurrence) (r : RouteNo) (x : Rec) (rest : List Rec) (s : State) :
    afterDrop o r x rest s =
      { (s.updRoute r fun t => Route.lose x.count { t with queue := rest }) with
        history := s.history.write .dropped s.timebase x
        store := s.store.free
        held := (overflowReported o r s).held ++ [.closeReport x.seq x.source s.timebase] } := by
  unfold afterDrop
  rw [closeAll_eq, overflowReported_held]
  rfl

theorem afterDrop_route (o : Occurrence) (r q : RouteNo) (x : Rec) (rest : List Rec) (s : State) :
    (afterDrop o r x rest s).route q =
      if q = r then Route.lose x.count { s.route r with queue := rest } else s.route q := by
  rw [afterDrop_eq]
  exact State.route_updRoute r q _ s

theorem afterDrop_store (o : Occurrence) (r : RouteNo) (x : Rec) (rest : List Rec) (s : State) :
    (afterDrop o r x rest s).store = s.store.free := by
  rw [afterDrop_eq]

theorem afterDrop_history (o : Occurrence) (r : RouteNo) (x : Rec) (rest : List Rec) (s : State) :
    (afterDrop o r x rest s).history = s.history.write .dropped s.timebase x := by
  rw [afterDrop_eq]

theorem afterDrop_held (o : Occurrence) (r : RouteNo) (x : Rec) (rest : List Rec) (s : State) :
    (afterDrop o r x rest s).held = (overflowReported o r s).held ++ [.closeReport x.seq x.source s.timebase] := by
  rw [afterDrop_eq]

theorem Store.free_nextSeq (st : Store) : st.free.nextSeq = st.nextSeq := by
  rw [Store.free_eq]
  split <;> rfl

/-- A record freed and one taken leave the free counts as they were, while the reserve is full as long as the general part has
records (R28). -/
theorem Store.take_free_counts {st : Store} (h8 : st.freeReserve ≤ 8) (h : 0 < st.freeGeneral → st.freeReserve = 8) :
    st.free.take.freeGeneral = st.freeGeneral ∧ st.free.take.freeReserve = st.freeReserve := by
  rw [Store.take_eq, Store.free_eq]
  split
  next hlt =>
    have h0 : st.freeGeneral = 0 := by omega
    simp [h0]
  next hfull => simp

/-- Settles O17: the drop gives room, and the record is then created behind the records left. -/
theorem dropOldMakesRoom : Obligations.DropOldMakesRoom := by
  intro o r s offered x rest hn ha hpools hqueue hoffered hx hfull hpolicy
  obtain ⟨-, hreserve, hfirst, -⟩ := hpools
  have hsplit : splitOldestPending (s.route r).queue = some (x, offered ++ rest) := by
    rw [hqueue]
    exact splitOldestPending_first offered x rest hoffered hx
  have hoffer := offer_of_room (foldOffered_of_nothingToFold hn) ha (makeRoom_of_dropOld (o := o) hfull hpolicy hsplit)
  have hseq : (afterDrop o r x (offered ++ rest) s).store.nextSeq = s.store.nextSeq := by
    rw [afterDrop_store, Store.free_nextSeq]
  rw [hseq] at hoffer
  have hroute := createRec_route o r r (afterDrop o r x (offered ++ rest) s)
  rw [if_pos rfl, afterDrop_route, if_pos rfl, hseq] at hroute
  obtain ⟨more, hheld⟩ := HoldsMore.createRec o r (afterDrop o r x (offered ++ rest) s)
  rw [afterDrop_held, List.append_assoc] at hheld
  have hhistory := createRec_history o r (afterDrop o r x (offered ++ rest) s)
  rw [afterDrop_history] at hhistory
  have hstore := createRec_store o r (afterDrop o r x (offered ++ rest) s)
  rw [afterDrop_store] at hstore
  obtain ⟨hgeneral', hreserve'⟩ := Store.take_free_counts hreserve hfirst
  refine ⟨_, more, hoffer, ?_, ?_, ?_, ?_, ?_, ?_, ?_, hheld⟩
  · rw [hroute]
    rfl
  · rw [hroute]
    rfl
  · rw [hroute]
    rfl
  · rw [hhistory]
    rfl
  · rw [hhistory, History.write_entries, List.getLast?_concat]
  · rw [hstore, hgeneral']
  · rw [hstore, hreserve']

end Sys2Proof.Machine

namespace Sys2Proof.Machine

/-! ### O2: one microsecond -/

theorem step_of_pending_nil {s : State} (h : s.pending = []) : step s = .next (idle s) := by
  unfold step
  rw [h]

theorem idle_of_hardReset {s : State} (h : s.hardReset ≠ none) : idle s = s :=
  if_pos (Option.isSome_iff_ne_none.2 h)

theorem idle_of_running {s : State} (h : s.running) : idle s = (handOnHeld s).tick := by
  have h' : s.hardReset = none := h
  unfold idle
  rw [h']
  rfl

theorem tick_source (s : State) (i : SourceNo) : s.tick.source i = (s.source i).tick := Table.getElem_map _ _ _ i.isLt

theorem tick_route (s : State) (r : RouteNo) : s.tick.route r = (s.route r).tick := Table.getElem_map _ _ _ r.isLt

theorem tick_action (s : State) (n : ActionNo) : s.tick.action n = (s.action n).tick := Table.getElem_map _ _ _ n.isLt

theorem tick_port (s : State) (p : Port) : s.tick.port p = (s.port p).tick := by cases p <;> rfl

/-- Settles O2, block by block. -/
theorem idleStepIsOneMicrosecond : Obligations.IdleStepIsOneMicrosecond := by
  intro s hpending
  refine ⟨fun h => by rw [step_of_pending_nil hpending, idle_of_hardReset h], fun h => ?_⟩
  intro u moves
  refine ⟨fun hheld => handOnHeld_of_held_nil s hheld, u.tick, ?_, rfl, rfl, rfl, ?_, ?_, rfl, rfl, rfl, rfl, rfl, rfl, rfl,
    rfl, fun i => ?_, fun r => ?_, fun n => ?_, fun p => ?_⟩
  · rw [step_of_pending_nil hpending, idle_of_running h]
  · exact (handOnHeld_kept s).pending.trans hpending
  · exact (handOnHeld_kept s).hardReset.trans h
  · rw [tick_source]
    generalize u.source i = t
    obtain ⟨cfg, state⟩ := t
    cases state <;> rfl
  · exact tick_route u r
  · rw [tick_action]
    generalize u.action n = a
    obtain ⟨cfg, state, graceNo, graceEnd⟩ := a
    cases state <;> rfl
  · rw [tick_port]
    unfold PortState.tick
    cases (u.port p).ackOwed <;> cases (u.port p).announce <;> rfl

/-! ### O45: GET-TIME and LINE-READ -/

/-- A set of one bit for each line, as six bytes, holds the bit of line `i` in its place (section 10.3). -/
theorem lineBytes_bit (s : State) (f : Line → Bool) (i : LineNo) :
    ((leBytes 6 (bitNumber (s.lines.toList.map f))).getD (i.val / 8) 0).getLsbD (i.val % 8) = f (s.line i) := by
  rw [leBytes_bit 6 _ i.val (by omega), bitNumber_testBit]
  have hlen : i.val < (s.lines.toList.map f).length := by simp
  rw [List.getD_eq_getElem _ _ hlen]
  simp [State.line]

/-- A request that has no field refuses any field (R176). -/
theorem taken_request_length {p : Port} {code : Byte} {rest : List Byte} {s : State}
    (act : Byte → List Byte → State → State)
    (hact : ∀ tag field fields u, act tag (field :: fields) u = refuse p code tag .badLength u)
    (h : Takes p code rest s) (hlen : rest.length ≠ 1) :
    taken s (request p code rest act) = .next (s.answered p [code + 0x80, rest.headD 0, 0x02]) := by
  cases rest with
  | nil => exact taken_request_bare h act
  | cons tag fields =>
    cases fields with
    | nil => exact absurd rfl hlen
    | cons field fields => rw [taken_request_tag h, hact, refuse_afterTake]; rfl

/-- Settles O45. -/
theorem timeAndLinesAreRead : Obligations.TimeAndLinesAreRead := by
  intro p tag s
  refine ⟨fun h => ?_, fun h => ⟨s.levelBytes, s.settledBytes, leBytes_length .., leBytes_length .., ?_, fun i => ?_⟩,
    fun rest hlen => ⟨fun h => ?_, fun h => ?_⟩⟩
  · exact taken_request_tag h (getTimeWith p)
  · refine (taken_request_tag h (lineReadWith p)).trans ?_
    rw [List.append_assoc]
    rfl
  · have hlevel : _ = (s.line i).level := lineBytes_bit s Line.level i
    have hmark : _ = (s.line i).isSettled := lineBytes_bit s Line.isSettled i
    cases hf : (s.line i).filter with
    | settled level run =>
      exact ⟨hlevel.trans (by rw [Line.level, hf]), hmark.trans (by rw [Line.isSettled, hf])⟩
    | unsettled candidate count =>
      exact ⟨hlevel.trans (by rw [Line.level, hf]), hmark.trans (by rw [Line.isSettled, hf])⟩
  · exact taken_request_length (getTimeWith p) (fun _ _ _ _ => rfl) h hlen
  · exact taken_request_length (lineReadWith p) (fun _ _ _ _ => rfl) h hlen

/-! ### O47: HISTORY-READ -/

/-- The oldest entry's close number, or the counter of an empty ring, lies as far below the counter as there are entries. -/
theorem History.oldest_eq {h : History} (hc : h.consecutive) : h.oldest = h.counter - BitVec.ofNat 16 h.entries.length := by
  obtain ⟨-, hno⟩ := hc
  unfold History.oldest
  cases he : h.entries with
  | nil => simp
  | cons e entries =>
    have h0 := hno 0 (by rw [he]; exact Nat.zero_lt_succ _)
    simpa [he] using h0

/-- How far the close number of entry `k` lies above the oldest. -/
theorem History.closeNo_sub_oldest {h : History} (hc : h.consecutive) {k : Nat} (hk : k < h.entries.length) :
    (h.entries[k].closeNo - h.oldest).toNat = k := by
  rw [History.oldest_eq hc]
  obtain ⟨hle, hno⟩ := hc
  rw [hno k hk]
  generalize h.counter = c
  have := c.isLt
  bv_omega

theorem History.counter_sub_oldest {h : History} (hc : h.consecutive) : (h.counter - h.oldest).toNat = h.entries.length := by
  rw [History.oldest_eq hc]
  obtain ⟨hle, -⟩ := hc
  generalize h.counter = c
  bv_omega

theorem History.start_of_retained {h : History} (hc : h.consecutive) {k : Nat} (hk : k < h.entries.length) :
    h.start h.entries[k].closeNo = (k, false) := by
  rw [History.start, History.closeNo_sub_oldest hc hk, if_pos hk]

theorem History.start_of_counter {h : History} (hc : h.consecutive) : h.start h.counter = (h.entries.length, false) := by
  rw [History.start, History.counter_sub_oldest hc, if_neg (Nat.lt_irrefl _), if_pos rfl]

theorem History.start_of_gap {h : History} (hc : h.consecutive) {no : Half}
    (hno : ∀ k : Fin h.entries.length, h.entries[k].closeNo ≠ no) (hcounter : no ≠ h.counter) : h.start no = (0, true) := by
  rw [History.start, if_neg, if_neg hcounter]
  intro hlt
  refine hno ⟨_, hlt⟩ ?_
  have hsub := History.closeNo_sub_oldest hc hlt
  exact sub_left_inj.1 (BitVec.eq_of_toNat_eq hsub)

/-- A history entry in a reply, with the code of its outcome written out (sections 10.3 and 10.6). -/
theorem HistEntry.bytes_eq :
    HistEntry.bytes = fun e : HistEntry =>
      leBytes 2 e.closeNo.toNat ++ leBytes 4 e.seq.toNat ++
        [byte e.source.val, kindCode e.kind, byte e.count, if e.outcome = .serviced then 1 else 2] ++
        leBytes 6 e.first.toNat ++ leBytes 6 e.closeTime.toNat := by
  funext e
  have hcode : closeOutcomeCode e.outcome = if e.outcome = .serviced then 1 else 2 := by cases e.outcome <;> rfl
  rw [HistEntry.bytes, hcode]

/-- GAP in bit 0 and MORE in bit 1 (section 10.3). -/
theorem historyFlags_eq (gap : Bool) (more : Prop) [Decidable more] :
    gap.toNat + 2 * (decide more).toNat = (if gap then 1 else 0) + if more then 2 else 0 := by
  by_cases h : more <;> cases gap <;> simp [h]

/-- The fields of a reply, by where the read starts and how many entries it carries (R40, R41). -/
theorem History.readFields_eq {h : History} {no : Half} {maxCount maxPayload n : Nat}
    (hn : h.carried (h.start no).1 maxCount maxPayload = n) :
    h.readFields no maxCount maxPayload =
      [byte n, byte ((if (h.start no).2 then 1 else 0) + if (h.start no).1 + n < h.entries.length then 2 else 0)] ++
        leBytes 2 (h.nextNo ((h.entries.drop (h.start no).1).take n)).toNat ++ [byte h.entries.length] ++
        ((h.entries.drop (h.start no).1).take n).flatMap HistEntry.bytes := by
  subst hn
  rw [← historyFlags_eq]
  rfl

theorem leNumber_two (b0 b1 : Byte) : leNumber [b0, b1] = b0.toNat + 256 * b1.toNat := by
  simp [leNumber]

/-- Settles O47: the start by its three cases, and the reply byte by byte. -/
theorem historyIsRead : Obligations.HistoryIsRead := by
  intro p tag n0 n1 max s hc htakes no h
  have hexec : exec (.historyRead p [tag, n0, n1, max]) s = .next (historyReadWith p tag [n0, n1, max] (s.afterTake p)) :=
    taken_request_tag htakes (historyReadWith p)
  refine ⟨fun hbad => ?_, fun h1 h64 => ⟨(h.start no).1, (h.start no).2, fun k hk => ?_, fun hk => ?_, fun hk hn => ?_, ?_⟩⟩
  · rw [hexec, historyReadWith, checked_error (readRange_bad (by omega))]
    rfl
  · have hstart : h.start h.entries[k].closeNo = _ := History.start_of_retained hc k.isLt
    rw [← hk, hstart]
    exact ⟨rfl, rfl⟩
  · rw [hk, History.start_of_counter hc]
    exact ⟨rfl, rfl⟩
  · rw [History.start_of_gap hc hk hn]
    exact ⟨rfl, rfl⟩
  · intro n carried
    have hparams : ((s.afterTake p).port p).params = (s.port p).params := by cases p <;> rfl
    have hnext : (h.nextNo carried).toNat =
        match carried.getLast? with
        | some e => (e.closeNo + 1).toNat
        | none => h.counter.toNat := by
      unfold History.nextNo
      cases carried.getLast? <;> rfl
    have hfields : h.readFields no max.toNat (s.port p).params.maxPayload = _ := History.readFields_eq (n := n) rfl
    rw [hnext, HistEntry.bytes_eq] at hfields
    rw [hexec, historyReadWith, checked_ok (readRange_ok ⟨h1, h64⟩), leNumber_two, hparams, State.history_afterTake, hfields]
    rfl

end Sys2Proof.Machine

namespace Sys2Proof.Machine

/-! ## What a step does to the records: the store, the ring, the queues

`KeepsRecords` says that a change leaves the store, the ring, and of every route its depth, its tally and the counts and routes
of its queued records. A property that such changes keep, and with them the few changes of `StepKeeps`, is kept by every step. -/

/-- What a record counts and where it stands: what no batch and no return of one changes. -/
def Rec.standing (x : Rec) : Nat × RouteNo := (x.count, x.route)

/-- A route with the same depth and tally, and the same records in its queue, be they offered or returned. -/
structure Route.SameRecords (t u : Route) : Prop where
  depth : u.cfg.depth = t.cfg.depth
  lost : u.lost = t.lost
  queue : u.queue.map Rec.standing = t.queue.map Rec.standing

theorem Route.SameRecords.refl (t : Route) : t.SameRecords t := ⟨rfl, rfl, rfl⟩

theorem Route.SameRecords.trans {t u v : Route} (h : t.SameRecords u) (h' : u.SameRecords v) : t.SameRecords v :=
  ⟨h'.depth.trans h.depth, h'.lost.trans h.lost, h'.queue.trans h.queue⟩

theorem Rec.returned_standing (x : Rec) : x.returned.standing = x.standing := by
  unfold Rec.returned
  cases x.state <;> rfl

theorem map_returned_standing (queue : List Rec) : (queue.map Rec.returned).map Rec.standing = queue.map Rec.standing := by
  rw [List.map_map]
  exact List.map_congr_left fun x _ => x.returned_standing

theorem Route.SameRecords.returnBatch (t : Route) : t.SameRecords t.returnBatch := ⟨rfl, rfl, map_returned_standing t.queue⟩

theorem Route.SameRecords.giveTo (owner : Option Port) (t : Route) : t.SameRecords (t.giveTo owner) :=
  ⟨rfl, rfl, map_returned_standing t.queue⟩

theorem Route.SameRecords.stall (t : Route) : t.SameRecords t.stall := ⟨rfl, rfl, map_returned_standing t.queue⟩

theorem Route.SameRecords.formBatch (n : Nat) (frame : Byte) (t : Route) : t.SameRecords (t.formBatch n frame) := by
  refine ⟨rfl, rfl, ?_⟩
  calc ((t.queue.take n).map Rec.offer ++ t.queue.drop n).map Rec.standing
      = (t.queue.take n).map Rec.standing ++ (t.queue.drop n).map Rec.standing := by
        rw [List.map_append, List.map_map]
        rfl
    _ = t.queue.map Rec.standing := by rw [← List.map_append, List.take_append_drop]

theorem Route.SameRecords.offerAcked (p : Port) (tag seq : Byte) (t : Route) : t.SameRecords (t.offerAcked p tag seq) := by
  unfold Route.offerAcked
  split
  · exact .refl t
  · split
    · split <;> exact ⟨rfl, rfl, rfl⟩
    · exact .refl t

theorem Route.SameRecords.tick (t : Route) : t.SameRecords t.tick := ⟨rfl, rfl, rfl⟩

/-- A change that leaves the store, the ring and the queued records of every route. -/
structure KeepsRecords (s t : State) : Prop where
  store : t.store = s.store
  history : t.history = s.history
  route : ∀ r, (s.route r).SameRecords (t.route r)

theorem KeepsRecords.refl (s : State) : KeepsRecords s s := ⟨rfl, rfl, fun r => .refl (s.route r)⟩

theorem KeepsRecords.trans {s t u : State} (h : KeepsRecords s t) (h' : KeepsRecords t u) : KeepsRecords s u :=
  ⟨h'.store.trans h.store, h'.history.trans h.history, fun r => (h.route r).trans (h'.route r)⟩

/-- A change of the other blocks alone. -/
theorem KeepsRecords.of_eq {s t : State} (hs : t.store = s.store) (hh : t.history = s.history) (hr : t.routes = s.routes) :
    KeepsRecords s t := by
  refine ⟨hs, hh, fun r => ?_⟩
  unfold State.route
  rw [hr]
  exact .refl _

theorem KeepsRecords.updPort (p : Port) (f : PortState → PortState) (s : State) : KeepsRecords s (s.updPort p f) :=
  .of_eq rfl rfl rfl

theorem KeepsRecords.updRoute {f : Route → Route} (hf : ∀ t : Route, t.SameRecords (f t)) (r : RouteNo) (s : State) :
    KeepsRecords s (s.updRoute r f) := by
  refine ⟨rfl, rfl, fun q => ?_⟩
  rw [State.route_updRoute]
  split
  next h => exact h ▸ hf _
  next => exact .refl _

theorem KeepsRecords.returnBatches (p : Port) (s : State) : KeepsRecords s (returnBatches p s) := by
  refine ⟨rfl, rfl, fun r => ?_⟩
  rw [returnBatches_route]
  split
  · exact .returnBatch _
  · exact .refl _

theorem KeepsRecords.failOver (owner : Port) (s : State) (r : RouteNo) : KeepsRecords s (failOver owner s r) :=
  (KeepsRecords.updRoute (.giveTo (some owner)) r s).trans (.updPort ..)

theorem KeepsRecords.foldl {α : Type} {f : State → α → State} (hf : ∀ s a, KeepsRecords s (f s a)) (l : List α) (s : State) :
    KeepsRecords s (l.foldl f s) := by
  induction l generalizing s with
  | nil => exact .refl s
  | cons a l ih => exact (hf s a).trans (ih _)

theorem KeepsRecords.raise (i : SourceNo) (detail : Half) (s : State) : KeepsRecords s (s.raise i detail) := by
  rw [State.raise_eq_reports]
  exact .of_eq rfl rfl rfl

theorem KeepsRecords.loseSession (p : Port) (cause : LossCause) (schedule : Schedule) (s : State) :
    KeepsRecords s (loseSession p cause schedule s) := by
  have hfail : KeepsRecords s (afterFailover p schedule s) :=
    ((KeepsRecords.updPort p (PortState.closed schedule) s).trans (.returnBatches p _)).trans
      (.foldl (KeepsRecords.failOver (otherPort p)) _ _)
  rw [loseSession_eq]
  exact hfail.trans (.of_eq rfl rfl rfl)

theorem KeepsRecords.tick (s : State) : KeepsRecords s s.tick :=
  ⟨rfl, rfl, fun r => by rw [tick_route]; exact .tick _⟩

/-! ### The changes of a step -/

/-- A property that every change of a step keeps: what leaves the records (`beside`), an offer, a configuration that the OFFERED
records fit, a batch served, a soft reset; and that the part has with the store, the ring and the routes of hard reset. -/
structure StepKeeps (P : State → Prop) : Prop where
  beside : ∀ {s t}, KeepsRecords s t → P s → P t
  offer : ∀ o r s, P s → P (offer o r s).2
  configure : ∀ r cfg s, 1 ≤ cfg.depth → cfg.depth ≤ 64 → offeredCount (s.route r).queue ≤ cfg.depth → P s →
    P (configureRoute r cfg s)
  complete : ∀ r k b s, P s → P (completeBatch r k b s)
  softReset : ∀ s, P s → P (softReset s)
  fresh : ∀ s, s.store = .initial → s.history = .initial → (∀ r, s.route r = Route.initial r) → P s

variable {P : State → Prop}

theorem StepKeeps.elsewhere (k : StepKeeps P) {s t : State} (h : P s) (hstore : t.store = s.store)
    (hhistory : t.history = s.history) (hroutes : t.routes = s.routes) : P t :=
  k.beside (.of_eq hstore hhistory hroutes) h

theorem StepKeeps.route (k : StepKeeps P) {r : RouteNo} {f : Route → Route} {s : State}
    (hf : ∀ t : Route, t.SameRecords (f t)) (h : P s) : P (s.updRoute r f) := k.beside (.updRoute hf r s) h

/-- Such a property is kept by every hand-off. -/
theorem StepKeeps.handOnKeeps (k : StepKeeps P) : HandOnKeeps P where
  held _ _ h := k.elsewhere h rfl rfl rfl
  answer _ _ _ h := k.elsewhere h rfl rfl rfl
  offer := k.offer
  fired _ _ _ h := k.elsewhere h rfl rfl rfl
  grace _ _ h := k.elsewhere h rfl rfl rfl

theorem StepKeeps.port (k : StepKeeps P) {p : Port} {f : PortState → PortState} {s : State} (h : P s) : P (s.updPort p f) :=
  k.beside (.updPort p f s) h

theorem StepKeeps.handOnHeld (k : StepKeeps P) {s : State} (h : P s) : P (handOnHeld s) := k.handOnKeeps.handOnHeld s h

theorem StepKeeps.raise (k : StepKeeps P) {i : SourceNo} {detail : Half} {s : State} (h : P s) : P (s.raise i detail) :=
  k.beside (.raise i detail s) h

theorem ite_keeps {c : Prop} [Decidable c] {s t : State} (ht : P t) (hs : P s) : P (if c then t else s) := by
  split
  · exact ht
  · exact hs

/-! ### Sessions -/

theorem StepKeeps.resetIfPending (k : StepKeeps P) (p : Port) {s : State} (h : P s) : P (resetIfPending p s) :=
  ite_keeps (k.softReset s h) h

theorem StepKeeps.endOrderly (k : StepKeeps P) (schedule : Schedule) (p : Port) {s : State} (h : P s) :
    P (endOrderly schedule p s) := k.resetIfPending p (k.beside (.returnBatches p _) (k.port h))

theorem StepKeeps.orderlyEnd (k : StepKeeps P) (p : Port) {s : State} (h : P s) : P (orderlyEnd p s) := k.endOrderly .due p h

theorem StepKeeps.sessionLoss (k : StepKeeps P) (p : Port) (cause : LossCause) (schedule : Schedule) {s : State} (h : P s) :
    P (sessionLoss p cause schedule s) := k.resetIfPending p (k.handOnHeld (k.beside (.loseSession p cause schedule s) h))

theorem StepKeeps.retryLimitReached (k : StepKeeps P) (p : Port) {s : State} (h : P s) : P (retryLimitReached p s) :=
  ite_keeps (k.orderlyEnd p h) (k.sessionLoss p .retryLimit .due h)

theorem StepKeeps.callRound (k : StepKeeps P) (p : Port) {s : State} (h : P s) : P (callRound p s) :=
  ite_keeps (k.port h) (k.retryLimitReached p h)

theorem StepKeeps.breakSession (k : StepKeeps P) (p : Port) {s : State} (h : P s) : P (breakSession p s) :=
  ite_keeps (k.sessionLoss p .linkBreak .suspended h) (ite_keeps (k.port h) (k.endOrderly .suspended p h))

theorem StepKeeps.reportAcked (k : StepKeeps P) (p : Port) (w : Slot) {s : State} (h : P s) : P (reportAcked p s w) := by
  unfold Machine.reportAcked
  cases w.role with
  | plain => exact h
  | close => exact ite_keeps (k.orderlyEnd p h) h
  | refusedOpen => exact ite_keeps (k.orderlyEnd p h) h
  | deviceReset => exact k.resetIfPending p h
  | notify r tag => exact k.route (.offerAcked p tag w.seq) h

theorem StepKeeps.applyAck (k : StepKeeps P) (p : Port) (a : Byte) {s : State} (h : P s) : P (applyAck p a s) := by
  have hacked : ∀ (acked : List Slot) (u : State), P u → P (acked.foldl (Machine.reportAcked p) u) := by
    intro acked
    induction acked with
    | nil => exact fun u hu => hu
    | cons w acked ih => exact fun u hu => ih _ (k.reportAcked p w hu)
  unfold Machine.applyAck
  split
  · exact h
  · exact k.port (hacked _ _ (k.port h))

/-! ### Frames from the agent -/

theorem StepKeeps.dataFrame (k : StepKeeps P) (p : Port) (seq info : Byte) (payload : List Byte) {s : State} (h : P s) :
    P (dataFrame p seq info payload s) := by
  have hsession : ∀ u, P u → P (dataInSession p seq info payload u) := fun u hu =>
    ite_keeps (ite_keeps (k.applyAck p info (k.port hu)) (k.port hu)) (k.applyAck p info (k.port hu))
  exact ite_keeps (ite_keeps (k.port (k.port h)) (k.port h)) (hsession _ (k.port (k.port h)))

theorem StepKeeps.ackFrame (k : StepKeeps P) (p : Port) (seq info : Byte) {s : State} (h : P s) :
    P (ackFrame p seq info s) := by
  have hsession : ∀ u, P u → P (ackInSession p seq info u) := fun u hu =>
    ite_keeps (k.callRound p (k.port (k.applyAck p seq hu))) (k.applyAck p seq hu)
  exact ite_keeps (k.port h) (hsession _ (k.port (k.port h)))

/-! ### Actions -/

theorem StepKeeps.endGrace (k : StepKeeps P) (n : ActionNo) (outcome : GraceOutcome) (endedBy : Option Port) {s : State}
    (h : P s) : P (endGrace n outcome endedBy s) := k.elsewhere h rfl rfl rfl

theorem StepKeeps.fire (k : StepKeeps P) (n : ActionNo) (cause : FireCause) {s : State} (h : P s) : P (fire n cause s) :=
  k.handOnKeeps.fire n cause s h

theorem StepKeeps.graceExpires (k : StepKeeps P) (n : ActionNo) {s : State} (h : P s) : P (graceExpires n s) := by
  unfold Machine.graceExpires
  cases (s.action n).state with
  | grace left => exact k.handOnHeld (k.fire n .graceExpiry (k.endGrace n .fired none h))
  | idle => exact h
  | fired cause pulse => exact h

theorem StepKeeps.pulseExpires (k : StepKeeps P) (n : ActionNo) {s : State} (h : P s) : P (pulseExpires n s) := by
  unfold Machine.pulseExpires
  split
  · exact k.elsewhere h rfl rfl rfl
  all_goals exact h

theorem StepKeeps.setOutput (k : StepKeeps P) (p : Port) (n : ActionNo) {s : State} (h : P s) : P (setOutput p n s) := by
  unfold Machine.setOutput
  cases (s.action n).state with
  | idle => exact k.fire n .request h
  | grace left => exact k.fire n .request (k.endGrace n .fired (some p) h)
  | fired cause pulse => exact h

/-! ### Lines -/

theorem StepKeeps.acceptChange (k : StepKeeps P) (i : LineNo) {s : State} (h : P s) : P (acceptChange i s) := by
  unfold Machine.acceptChange
  split
  · exact k.handOnHeld (k.handOnKeeps.sourceSeesChange _ _ _ _ (k.elsewhere h rfl rfl rfl))
  · exact h

theorem StepKeeps.settleLine (k : StepKeeps P) (i : LineNo) {s : State} (h : P s) : P (settleLine i s) := by
  unfold Machine.settleLine
  split
  · exact k.handOnHeld (k.handOnKeeps.sourceSeesSettle _ _ _ _ (k.elsewhere h rfl rfl rfl))
  · exact h

theorem StepKeeps.holdoffExpires (k : StepKeeps P) (i : SourceNo) {s : State} (h : P s) : P (holdoffExpires i s) := by
  unfold Machine.holdoffExpires
  split
  · exact k.handOnHeld (k.handOnKeeps.occur _ _ _ _ h)
  all_goals exact h

/-! ### The service cycle -/

theorem StepKeeps.serviceTimerExpires (k : StepKeeps P) (r : RouteNo) {s : State} (h : P s) : P (serviceTimerExpires r s) := by
  unfold Machine.serviceTimerExpires
  split
  · exact ite_keeps (k.route (fun _ => ⟨rfl, rfl, rfl⟩) h)
      (k.handOnHeld (k.raise (k.route .stall h)))
  · exact h

theorem StepKeeps.placeNotify (k : StepKeeps P) (p : Port) (r : RouteNo) (again : Bool) {s : State} (h : P s) :
    P (placeNotify p r again s) := by
  unfold Machine.placeNotify
  split
  · exact h
  · exact k.port h

theorem StepKeeps.formBatch (k : StepKeeps P) (p : Port) (r : RouteNo) {s : State} (h : P s) : P (formBatch p r s) :=
  k.placeNotify p r false (k.route (fun t => .formBatch _ _ t) h)

theorem StepKeeps.reofferBatch (k : StepKeeps P) (p : Port) (r : RouteNo) {s : State} (h : P s) : P (reofferBatch p r s) :=
  k.placeNotify p r true (k.route (fun _ => ⟨rfl, rfl, rfl⟩) h)

/-! ### Requests -/

theorem StepKeeps.takeRequest (k : StepKeeps P) {p : Port} {code : Byte} {rest : List Byte} {s u : State} (h : P s)
    (hu : takeRequest p code rest s = some u) : P u := by
  unfold Machine.takeRequest at hu
  split at hu
  · split at hu
    · cases hu
      exact k.port h
    · cases hu
  · split at hu
    · cases hu
      exact h
    · cases hu

theorem StepKeeps.answerWith (k : StepKeeps P) {p : Port} {code tag : Byte} {result : Result} {fields : List Byte} {s : State}
    (h : P s) : P (answerWith p code tag result fields s) := k.port h

theorem StepKeeps.request (k : StepKeeps P) {p : Port} {code : Byte} {rest : List Byte} {act : Byte → List Byte → State → State}
    {s : State} (hact : ∀ tag fields u, P u → P (act tag fields u)) (h : P s) : P (request p code rest act s) := by
  unfold Machine.request
  cases e : Machine.takeRequest p code rest s with
  | none => exact h
  | some u =>
    have hu := k.takeRequest h e
    cases rest with
    | nil => exact k.answerWith hu
    | cons tag fields => exact hact tag fields u hu

theorem StepKeeps.checked (k : StepKeeps P) {α : Type} {p : Port} {code tag : Byte} {value : Except Result α}
    {act : α → State → State} {s : State} (hact : ∀ v, value = .ok v → P (act v s)) (h : P s) :
    P (checked p code tag value act s) := by
  cases value with
  | error r => exact k.answerWith h
  | ok v => exact hact v rfl

end Sys2Proof.Machine

namespace Sys2Proof.Machine

/-! ### What each request keeps -/

variable {P : State → Prop}

theorem StepKeeps.answerOk (k : StepKeeps P) {p : Port} {code tag : Byte} {fields : List Byte} {s : State} (h : P s) :
    P (answerOk p code tag fields s) := k.answerWith h

theorem StepKeeps.refuse (k : StepKeeps P) {p : Port} {code tag : Byte} {result : Result} {s : State} (h : P s) :
    P (refuse p code tag result s) := k.answerWith h

/-- A request that has changed the configuration hands on what it holds (R17). -/
theorem StepKeeps.configChanged (k : StepKeeps P) {p : Port} {code : Byte} {s : State} (h : P s) :
    P (Machine.handOnHeld (configChanged p code s)) := k.handOnHeld (k.raise h)

theorem StepKeeps.openTaken (k : StepKeeps P) (p : Port) (seq : Byte) (rest : List Byte) {s : State} (h : P s) :
    P (openTaken p seq rest s) := by
  have hend : P (endBeforeOpen p s) := ite_keeps h (k.orderlyEnd p h)
  cases rest with
  | nil => exact k.port hend
  | cons tag fields =>
    change P (openWith p seq tag fields (endBeforeOpen p s))
    unfold openWith
    cases readOpen fields with
    | ok q => exact k.port hend
    | error r => exact k.port hend

theorem StepKeeps.takeOpen (k : StepKeeps P) {p : Port} {seq : Byte} {rest : List Byte} {s u : State} (h : P s)
    (hu : takeOpen p seq rest s = some u) : P u := by
  unfold Machine.takeOpen at hu
  split at hu
  · split at hu
    · cases hu
      exact k.port h
    · cases hu
  · split at hu
    · cases hu
    · cases hu
      exact h

theorem StepKeeps.closeWith (k : StepKeeps P) (p : Port) (tag : Byte) (fields : List Byte) (s : State) (h : P s) :
    P (closeWith p tag fields s) := by
  cases fields with
  | nil => exact k.port h
  | cons field fields => exact k.refuse h

theorem StepKeeps.pingWith (k : StepKeeps P) (p : Port) (tag : Byte) (fields : List Byte) (s : State) (h : P s) :
    P (pingWith p tag fields s) := by
  cases fields with
  | nil => exact k.answerOk h
  | cons field fields => exact k.refuse h

theorem StepKeeps.dormantWith (k : StepKeeps P) (p : Port) (tag : Byte) (fields : List Byte) (s : State) (h : P s) :
    P (dormantWith p tag fields s) := by
  cases fields with
  | nil => exact ite_keeps (k.refuse h) (k.port h)
  | cons field fields => exact k.refuse h

theorem StepKeeps.deviceResetWith (k : StepKeeps P) (p : Port) (tag : Byte) (fields : List Byte) (s : State) (h : P s) :
    P (deviceResetWith p tag fields s) := by
  cases fields with
  | nil => exact k.port h
  | cons field fields => exact k.refuse h

theorem StepKeeps.statusWith (k : StepKeeps P) (p : Port) (tag : Byte) (fields : List Byte) (s : State) (h : P s) :
    P (statusWith p tag fields s) := by
  cases fields with
  | nil => exact k.answerOk h
  | cons field fields => exact k.refuse h

theorem StepKeeps.getTimeWith (k : StepKeeps P) (p : Port) (tag : Byte) (fields : List Byte) (s : State) (h : P s) :
    P (getTimeWith p tag fields s) := by
  cases fields with
  | nil => exact k.answerOk h
  | cons field fields => exact k.refuse h

theorem StepKeeps.setTimeWith (k : StepKeeps P) (p : Port) (tag : Byte) (fields : List Byte) (s : State) (h : P s) :
    P (setTimeWith p tag fields s) :=
  ite_keeps (k.configChanged (k.elsewhere h rfl rfl rfl)) (k.refuse h)

theorem StepKeeps.historyReadWith (k : StepKeeps P) (p : Port) (tag : Byte) (fields : List Byte) (s : State) (h : P s) :
    P (historyReadWith p tag fields s) := by
  unfold Machine.historyReadWith
  split
  · exact k.checked (fun _ _ => k.answerOk h) h
  · exact k.refuse h

theorem StepKeeps.lineReadWith (k : StepKeeps P) (p : Port) (tag : Byte) (fields : List Byte) (s : State) (h : P s) :
    P (lineReadWith p tag fields s) := by
  cases fields with
  | nil => exact k.answerOk h
  | cons field fields => exact k.refuse h

theorem StepKeeps.configureSource (k : StepKeeps P) (i : SourceNo) (cfg : SourceConfig) {s : State} (h : P s) :
    P (configureSource i cfg s) := by
  unfold Machine.configureSource restartLine
  split
  · exact k.elsewhere h rfl rfl rfl
  · exact k.elsewhere h rfl rfl rfl

theorem StepKeeps.sourceSetWith (k : StepKeeps P) (p : Port) (tag : Byte) (fields : List Byte) (s : State) (h : P s) :
    P (sourceSetWith p tag fields s) := by
  unfold Machine.sourceSetWith
  split
  · exact k.checked
      (fun v _ => ite_keeps (k.configChanged (k.answerOk (k.configureSource v.1 v.2 h))) (k.refuse h)) h
  · exact k.refuse h

theorem StepKeeps.sourceGetWith (k : StepKeeps P) (p : Port) (tag : Byte) (fields : List Byte) (s : State) (h : P s) :
    P (sourceGetWith p tag fields s) := by
  unfold Machine.sourceGetWith
  split
  · exact k.checked (fun _ _ => k.answerOk h) h
  · exact k.refuse h

/-- A check that passes in a row of checks. -/
theorem Result.bind_eq_ok {α β : Type} {x : Except Result α} {f : α → Except Result β} {b : β} (h : (x >>= f) = .ok b) :
    ∃ a, x = .ok a ∧ f a = .ok b := by
  cases x with
  | error r => cases h
  | ok a => exact ⟨a, rfl, h⟩

theorem readRange_within {low high n : Nat} {b : Byte} (h : readRange low high b = .ok n) : low ≤ n ∧ n ≤ high := by
  unfold readRange at h
  split at h
  next hb =>
    cases h
    exact hb
  · cases h

theorem readRouteConfig_depth {priority depth policy batchMax timeout retries wake failover takeover masked : Byte}
    {c : RouteConfig}
    (h : readRouteConfig priority depth policy batchMax timeout retries wake failover takeover masked = .ok c) :
    1 ≤ c.depth ∧ c.depth ≤ 64 := by
  obtain ⟨_, -, h⟩ := Result.bind_eq_ok h
  obtain ⟨d, hd, h⟩ := Result.bind_eq_ok h
  obtain ⟨_, -, h⟩ := Result.bind_eq_ok h
  obtain ⟨_, -, h⟩ := Result.bind_eq_ok h
  obtain ⟨_, -, h⟩ := Result.bind_eq_ok h
  obtain ⟨_, -, h⟩ := Result.bind_eq_ok h
  obtain ⟨_, -, h⟩ := Result.bind_eq_ok h
  obtain ⟨_, -, h⟩ := Result.bind_eq_ok h
  obtain ⟨_, -, h⟩ := Result.bind_eq_ok h
  cases h
  exact readRange_within hd

/-- ROUTE-SET lets through depths of 1 to 64 alone (R43, R59). -/
theorem readRouteSet_depth {fields : List Byte} {v : RouteNo × RouteConfig} (h : readRouteSet fields = .ok v) :
    1 ≤ v.2.depth ∧ v.2.depth ≤ 64 := by
  unfold readRouteSet at h
  split at h
  next route priority depth policy batchMax timeout retries wake failover takeover masked =>
    obtain ⟨r, -, h⟩ := Result.bind_eq_ok h
    obtain ⟨c, hc, h⟩ := Result.bind_eq_ok h
    cases h
    exact readRouteConfig_depth hc
  · cases h

theorem StepKeeps.routeSetWith (k : StepKeeps P) (p : Port) (tag : Byte) (fields : List Byte) (s : State) (h : P s) :
    P (routeSetWith p tag fields s) := by
  refine k.checked (fun v hv => ?_) h
  obtain ⟨hlow, hhigh⟩ := readRouteSet_depth hv
  unfold routeSetChecked
  split
  · exact k.refuse h
  · split
    · exact k.refuse h
    next hoffered =>
      exact k.configChanged (k.handOnKeeps.handSome _ _
        (k.answerOk (k.configure v.1 v.2 s hlow hhigh (Nat.le_of_not_lt hoffered) h)))

theorem StepKeeps.routeGetWith (k : StepKeeps P) (p : Port) (tag : Byte) (fields : List Byte) (s : State) (h : P s) :
    P (routeGetWith p tag fields s) := by
  unfold Machine.routeGetWith
  split
  · exact k.checked (fun _ _ => k.answerOk h) h
  · exact k.refuse h

theorem StepKeeps.claimChanges (k : StepKeeps P) (p : Port) (r : RouteNo) {s : State} (h : P s) : P (claimChanges p r s) := by
  have hgiven : P (s.updRoute r (Route.giveTo (some p))) := k.route (.giveTo (some p)) h
  refine k.port ?_
  unfold tellOldOwner
  cases (s.route r).owner with
  | none => exact hgiven
  | some q => exact k.port hgiven

theorem StepKeeps.claimRouteWith (k : StepKeeps P) (p : Port) (tag : Byte) (fields : List Byte) (s : State) (h : P s) :
    P (claimRouteWith p tag fields s) := by
  unfold Machine.claimRouteWith
  split
  · refine k.checked (fun v _ => ?_) h
    unfold claimRouteChecked
    cases s.claim p v.1 v.2 with
    | denied => exact k.answerWith h
    | keep => exact k.configChanged (k.answerOk h)
    | change => exact k.configChanged (k.answerOk (k.claimChanges p v.1 h))
  · exact k.refuse h

theorem StepKeeps.releaseRouteWith (k : StepKeeps P) (p : Port) (tag : Byte) (fields : List Byte) (s : State) (h : P s) :
    P (releaseRouteWith p tag fields s) := by
  unfold Machine.releaseRouteWith
  split
  · exact k.checked
      (fun r _ => ite_keeps (k.configChanged (k.answerOk (k.port (k.route (.giveTo none) h)))) (k.refuse h)) h
  · exact k.refuse h

theorem StepKeeps.resumeRouteWith (k : StepKeeps P) (p : Port) (tag : Byte) (fields : List Byte) (s : State) (h : P s) :
    P (resumeRouteWith p tag fields s) := by
  unfold Machine.resumeRouteWith
  split
  · exact k.checked (fun r _ => ite_keeps (k.answerOk (k.route (fun _ => ⟨rfl, rfl, rfl⟩) h)) (k.refuse h)) h
  · exact k.refuse h

theorem StepKeeps.serviceDoneWith (k : StepKeeps P) (p : Port) (tag : Byte) (fields : List Byte) (s : State) (h : P s) :
    P (serviceDoneWith p tag fields s) := by
  unfold Machine.serviceDoneWith
  split
  · refine k.checked (fun v _ => ite_keeps ?_ (k.refuse h)) h
    cases (s.route v.1).batchOf v.2.1 with
    | none => exact k.refuse h
    | some b => exact ite_keeps (k.refuse h) (k.handOnHeld (k.answerOk (k.complete v.1 v.2.2 b s h)))
  · exact k.refuse h

theorem StepKeeps.actionSetWith (k : StepKeeps P) (p : Port) (tag : Byte) (fields : List Byte) (s : State) (h : P s) :
    P (actionSetWith p tag fields s) :=
  k.checked (fun _ _ => ite_keeps (k.configChanged (k.elsewhere h rfl rfl rfl)) (k.refuse h)) h

theorem StepKeeps.actionGetWith (k : StepKeeps P) (p : Port) (tag : Byte) (fields : List Byte) (s : State) (h : P s) :
    P (actionGetWith p tag fields s) := by
  unfold Machine.actionGetWith
  split
  · exact k.checked (fun _ _ => k.answerOk h) h
  · exact k.refuse h

theorem StepKeeps.cancelActionWith (k : StepKeeps P) (p : Port) (tag : Byte) (fields : List Byte) (s : State) (h : P s) :
    P (cancelActionWith p tag fields s) := by
  unfold Machine.cancelActionWith
  split
  · refine k.checked (fun n _ => ?_) h
    unfold cancelActionChecked
    cases (s.action n).state with
    | grace left => exact k.answerOk (k.elsewhere (k.endGrace n .cancelled (some p) h) rfl rfl rfl)
    | fired cause pulse => exact k.answerWith h
    | idle => exact k.answerWith h
  · exact k.refuse h

theorem StepKeeps.setOutputWith (k : StepKeeps P) (p : Port) (tag : Byte) (fields : List Byte) (s : State) (h : P s) :
    P (setOutputWith p tag fields s) := by
  unfold Machine.setOutputWith
  split
  · exact k.checked (fun n _ => k.handOnHeld (k.answerOk (k.setOutput p n h))) h
  · exact k.refuse h

theorem StepKeeps.clearOutputWith (k : StepKeeps P) (p : Port) (tag : Byte) (fields : List Byte) (s : State) (h : P s) :
    P (clearOutputWith p tag fields s) := by
  unfold Machine.clearOutputWith
  split
  · refine k.checked (fun n _ => ?_) h
    unfold clearOutputChecked
    cases (s.action n).state with
    | fired cause pulse => exact k.answerOk (k.elsewhere h rfl rfl rfl)
    | idle => exact k.refuse h
    | grace left => exact k.refuse h
  · exact k.refuse h

theorem StepKeeps.answerBadCode (k : StepKeeps P) (p : Port) (code : Byte) (rest : List Byte) {s : State} (h : P s) :
    P (answerBadCode p code rest s) := by
  refine ite_keeps h ?_
  cases e : Machine.takeRequest p code rest s with
  | none => exact h
  | some u => exact k.port (k.takeRequest h e)

/-! ### What every command and every step keep -/

/-- A command that acts by `f`, or not at all, keeps what `f` keeps. -/
theorem keeps_of_taken {f : State → State} {s t : State} (h : taken s f = .next t) (hf : P (f s)) (hs : P s) : P t := by
  obtain rfl | rfl := taken_next h
  · exact hf
  · exact hs

theorem keeps_of_received {p : Port} {f : State → State} {s t : State} (h : received p s f = .next t) (hf : P (f s))
    (hs : P s) : P t := keeps_of_taken h (ite_keeps hs hf) hs

theorem StepKeeps.of_request (k : StepKeeps P) {p : Port} {code : Byte} {rest : List Byte}
    {act : Byte → List Byte → State → State} {s t : State} (h : taken s (Machine.request p code rest act) = .next t)
    (hact : ∀ tag fields u, P u → P (act tag fields u)) (hs : P s) : P t := keeps_of_taken h (k.request hact hs) hs

theorem released_route (pending : List Instr) (arrivals : Nat) (cause : HardCause) (rate1 rate0 : Bool) (r : RouteNo) :
    (State.released pending arrivals cause rate1 rate0).route r = Route.initial r := Vector.getElem_ofFn _

/-- A property of the records that every change of a step keeps is kept by every command. -/
theorem StepKeeps.exec (k : StepKeeps P) {c : Instr} {s t : State} (h : exec c s = .next t) (hs : P s) : P t := by
  cases c with
  | hardReset cause =>
    cases h
    exact k.fresh _ rfl rfl fun r => released_route s.pending s.arrivals (joinCause s.hardReset cause) false false r
  | resetRelease rate1 rate0 =>
    cases h
    split
    · exact hs
    · exact k.fresh _ rfl rfl fun r => released_route s.pending s.arrivals _ rate1 rate0 r
  | sampleInstant raw => exact keeps_of_taken h (ite_keeps (k.elsewhere hs rfl rfl rfl) hs) hs
  | acceptedLevelChange i => exact keeps_of_taken h (ite_keeps (k.acceptChange i hs) hs) hs
  | settleReport i => exact keeps_of_taken h (ite_keeps (k.settleLine i hs) hs) hs
  | holdoffExpiry i => exact keeps_of_taken h (k.holdoffExpires _ hs) hs
  | serviceTimerExpiry r => exact keeps_of_taken h (k.serviceTimerExpires r hs) hs
  | formBatch p =>
    change execFormBatch p s = .next t at h
    refine keeps_of_taken h ?_ hs
    split
    · exact k.formBatch p _ hs
    · exact hs
  | reoffer p =>
    change execReoffer p s = .next t at h
    refine keeps_of_taken h ?_ hs
    split
    · exact k.reofferBatch p _ hs
    · exact hs
  | placeReply p | routeLost p | routeGained p | actionPending p | actionEnded p | transmitDataFrame p =>
    dsimp only [Machine.exec] at h
    refine keeps_of_taken h ?_ hs
    split
    · exact k.port hs
    · exact hs
  | graceExpiry n => exact keeps_of_taken h (k.graceExpires n hs) hs
  | pulseExpiry n => exact keeps_of_taken h (k.pulseExpires n hs) hs
  | syncByte p | frameHeaderReceived p bytes | payloadBad p ftype bytes | skipComplete p =>
    exact keeps_of_received h (k.port hs) hs
  | interByteGap p | framingError p | ackDelayExpiry p | frameTransmitEnd p | breakLineMark p =>
    exact keeps_of_taken h (k.port hs) hs
  | dataFrameReceived p seq info payload =>
    exact keeps_of_received h (ite_keeps (k.dataFrame p seq info payload hs) hs) hs
  | ackFrameReceived p seq info payload => exact keeps_of_received h (ite_keeps (k.ackFrame p seq info hs) hs) hs
  | announceFrameReceived p seq info payload => exact keeps_of_received h (ite_keeps (k.port hs) hs) hs
  | transmitAckFrame p => exact keeps_of_taken h (ite_keeps (k.port hs) hs) hs
  | retransmitTimeout p => exact keeps_of_taken h (ite_keeps (k.callRound p (k.port hs)) hs) hs
  | linkBreak p =>
    change execLinkBreak p s = .next t at h
    exact keeps_of_taken h (ite_keeps hs (k.breakSession p (k.port hs))) hs
  | announce p => exact keeps_of_taken h (ite_keeps (k.port hs) hs) hs
  | silenceExpiry p => exact keeps_of_taken h (ite_keeps (k.sessionLoss p .silence .due hs) hs) hs
  | deviceResetTimeout p => exact keeps_of_taken h (ite_keeps (k.softReset s hs) hs) hs
  | openSession p seq rest =>
    change execOpenSession p seq rest s = .next t at h
    refine keeps_of_taken h ?_ hs
    split
    · exact hs
    next u hu => exact k.openTaken p seq rest (k.takeOpen hs hu)
  | close p rest => exact k.of_request h (k.closeWith p) hs
  | ping p rest => exact k.of_request h (k.pingWith p) hs
  | dormant p rest => exact k.of_request h (k.dormantWith p) hs
  | status p rest => exact k.of_request h (k.statusWith p) hs
  | deviceReset p rest => exact k.of_request h (k.deviceResetWith p) hs
  | getTime p rest => exact k.of_request h (k.getTimeWith p) hs
  | setTime p rest => exact k.of_request h (k.setTimeWith p) hs
  | sourceSet p rest => exact k.of_request h (k.sourceSetWith p) hs
  | sourceGet p rest => exact k.of_request h (k.sourceGetWith p) hs
  | lineRead p rest => exact k.of_request h (k.lineReadWith p) hs
  | routeSet p rest => exact k.of_request h (k.routeSetWith p) hs
  | routeGet p rest => exact k.of_request h (k.routeGetWith p) hs
  | claimRoute p rest => exact k.of_request h (k.claimRouteWith p) hs
  | releaseRoute p rest => exact k.of_request h (k.releaseRouteWith p) hs
  | resumeRoute p rest => exact k.of_request h (k.resumeRouteWith p) hs
  | serviceDone p rest => exact k.of_request h (k.serviceDoneWith p) hs
  | actionSet p rest => exact k.of_request h (k.actionSetWith p) hs
  | actionGet p rest => exact k.of_request h (k.actionGetWith p) hs
  | cancelAction p rest => exact k.of_request h (k.cancelActionWith p) hs
  | setOutput p rest => exact k.of_request h (k.setOutputWith p) hs
  | clearOutput p rest => exact k.of_request h (k.clearOutputWith p) hs
  | historyRead p rest => exact k.of_request h (k.historyReadWith p) hs
  | badCode p code rest => exact keeps_of_taken h (k.answerBadCode p code rest hs) hs

/-- And so by every step: a command, or one microsecond. -/
theorem StepKeeps.step (k : StepKeeps P) {s t : State} (h : step s = .next t) (hs : P s) : P t := by
  unfold Machine.step at h
  split at h
  · cases h
    exact ite_keeps hs (k.beside (.tick _) (k.handOnHeld hs))
  · exact k.exec h (k.elsewhere hs rfl rfl rfl)

end Sys2Proof.Machine

namespace Sys2Proof.Machine

/-! ### O57: close numbers and the sequence counter -/

theorem newest64_length (entries : List HistEntry) : (newest64 entries).length = min 64 entries.length := by
  rw [newest64, List.length_drop]
  omega

theorem Half.succ_sub_succ (c : Half) (m : Nat) : c + 1 - BitVec.ofNat 16 (m + 1) = c - BitVec.ofNat 16 m := by
  bv_omega

/-- One more entry takes the close number that the counter stands at, and the counter moves on (R39). -/
theorem History.consecutive_write {h : History} (hc : h.consecutive) (out : CloseOutcome) (time : Time) (x : Rec) :
    (h.write out time x).consecutive := by
  obtain ⟨hle, hno⟩ := hc
  rw [History.write_eq hle]
  refine ⟨newest64_length_le _, fun k hk => ?_⟩
  dsimp only at hk ⊢
  have hlen := newest64_length (h.entries ++ [x.closedEntry out time h.counter])
  rw [hlen] at hk ⊢
  simp only [List.length_append, List.length_singleton] at hk ⊢
  simp only [newest64, List.getElem_drop, List.length_append, List.length_singleton]
  have hleft : ∀ j, j = h.entries.length + 1 - 64 + k → min 64 (h.entries.length + 1) - k = h.entries.length - j + 1 := by
    omega
  rw [hleft _ rfl, Half.succ_sub_succ]
  by_cases hold : h.entries.length + 1 - 64 + k < h.entries.length
  · rw [List.getElem_append_left hold]
    exact hno _ hold
  · rw [List.getElem_append_right (Nat.le_of_not_lt hold), Nat.sub_eq_zero_of_le (Nat.le_of_not_lt hold)]
    simp [Rec.closedEntry]

theorem History.consecutive_foldl_write {h : History} (hc : h.consecutive) (out : CloseOutcome) (time : Time) (xs : List Rec) :
    (xs.foldl (fun h x => h.write out time x) h).consecutive := by
  induction xs generalizing h with
  | nil => exact hc
  | cons x xs ih => exact ih (History.consecutive_write hc out time x)

theorem History.consecutive_of_nil {h : History} (hn : h.entries = []) : h.consecutive := by
  refine ⟨by rw [hn]; exact Nat.zero_le _, fun k hk => ?_⟩
  rw [hn] at hk
  exact absurd hk (Nat.not_lt_zero k)

theorem Seq.next_ne_zero (q : Seq) : Seq.next q ≠ 0 := by
  unfold Seq.next
  split
  · decide
  · bv_omega

theorem Store.take_nextSeq (st : Store) : st.take.nextSeq = Seq.next st.nextSeq := by
  unfold Store.take
  split <;> rfl

theorem Store.foldl_free_nextSeq (xs : List Rec) (st : Store) : (xs.foldl (fun st _ => st.free) st).nextSeq = st.nextSeq := by
  induction xs generalizing st with
  | nil => rfl
  | cons x xs ih => rw [List.foldl_cons, ih, Store.free_nextSeq]

/-- The ring and the sequence counter as R39 and R27 have them. -/
def State.numbersInOrder (s : State) : Prop := s.history.consecutive ∧ s.counterNotZero

theorem numbersInOrder_of_eq {s t : State} (h : s.numbersInOrder) (hh : t.history = s.history)
    (hq : t.store.nextSeq = s.store.nextSeq) : t.numbersInOrder := by
  obtain ⟨hring, hcounter⟩ := h
  unfold State.numbersInOrder State.counterNotZero
  rw [hh, hq]
  exact ⟨hring, hcounter⟩

theorem numbersInOrder_closeAll {s : State} (h : s.numbersInOrder) (out : CloseOutcome) (time : Time) (xs : List Rec) :
    (s.closeAll out time xs).numbersInOrder := by
  obtain ⟨hring, hcounter⟩ := h
  rw [closeAll_eq]
  refine ⟨History.consecutive_foldl_write hring out time xs, ?_⟩
  change (xs.foldl (fun st _ => st.free) s.store).nextSeq ≠ 0
  rw [Store.foldl_free_nextSeq]
  exact hcounter

theorem numbersInOrder_createRec {s : State} (h : s.numbersInOrder) (o : Occurrence) (r : RouteNo) :
    (createRec o r s).numbersInOrder := by
  unfold State.numbersInOrder State.counterNotZero
  rw [createRec_history, createRec_store, Store.take_nextSeq]
  exact ⟨h.1, Seq.next_ne_zero _⟩

theorem numbersInOrder_overflowReported {s : State} (h : s.numbersInOrder) (o : Occurrence) (r : RouteNo) :
    (overflowReported o r s).numbersInOrder :=
  numbersInOrder_of_eq h (overflowReported_history o r s) (congrArg Store.nextSeq (overflowReported_store o r s))

theorem numbersInOrder_updRoute {s : State} (h : s.numbersInOrder) (r : RouteNo) (f : Route → Route) :
    (s.updRoute r f).numbersInOrder := numbersInOrder_of_eq h rfl rfl

theorem numbersInOrder_afterDrop {s : State} (h : s.numbersInOrder) (o : Occurrence) (r : RouteNo) (x : Rec)
    (rest : List Rec) : (afterDrop o r x rest s).numbersInOrder :=
  numbersInOrder_closeAll (numbersInOrder_updRoute (numbersInOrder_overflowReported h o r) r _) .dropped s.timebase [x]

theorem numbersInOrder_keeps : StepKeeps State.numbersInOrder where
  beside h hs := numbersInOrder_of_eq hs h.history (congrArg Store.nextSeq h.store)
  offer o r s hs := by
    obtain ⟨front, x, back, -, h⟩ | h | ⟨-, -, h⟩ | ⟨front, x, back, -, -, -, h⟩ | h := offer_cases o r s <;> rw [h]
    · exact numbersInOrder_updRoute hs r _
    · exact numbersInOrder_updRoute hs r _
    · exact numbersInOrder_createRec hs o r
    · exact numbersInOrder_createRec (numbersInOrder_afterDrop hs o r x (front ++ back)) o r
    · exact numbersInOrder_updRoute (numbersInOrder_overflowReported hs o r) r _
  configure r _ s _ _ _ hs := numbersInOrder_closeAll (numbersInOrder_updRoute hs r _) .dropped s.timebase _
  complete r _ _ s hs := numbersInOrder_closeAll (numbersInOrder_updRoute hs r _) .serviced s.timebase _
  softReset s hs := by
    obtain ⟨-, hcounter⟩ := hs
    refine ⟨History.consecutive_of_nil (by rw [softReset_history]), ?_⟩
    unfold State.counterNotZero
    rw [softReset_store]
    exact hcounter
  fresh s hstore hhistory _ := by
    refine ⟨History.consecutive_of_nil (by rw [hhistory]; rfl), ?_⟩
    unfold State.counterNotZero
    rw [hstore]
    decide

/-- Settles O57: closing and creating keep the numbers in order, and nothing else of a step touches them but the resets. -/
theorem stepKeepsHistoryAndCounter : Obligations.StepKeepsHistoryAndCounter :=
  fun _ _ h hs => numbersInOrder_keeps.step h hs

end Sys2Proof.Machine

namespace Sys2Proof.Machine

/-! ### O56: pools, queues and ranges -/

/-- The pools agree with `n` records queued (R26, R28). -/
def Store.agrees (st : Store) (n : Nat) : Prop :=
  st.freeGeneral ≤ 248 ∧ st.freeReserve ≤ 8 ∧ (0 < st.freeGeneral → st.freeReserve = 8) ∧
    st.freeGeneral + st.freeReserve + n = 256

theorem Store.agrees_take {st : Store} {n : Nat} (h : st.agrees n) (hfree : 0 < st.freeGeneral ∨ 0 < st.freeReserve) :
    st.take.agrees (n + 1) := by
  obtain ⟨hgeneral, hreserve, hfull, hsum⟩ := h
  rw [Store.take_eq]
  unfold Store.agrees
  dsimp only
  split <;> omega

theorem Store.agrees_free {st : Store} {n : Nat} (h : st.agrees (n + 1)) : st.free.agrees n := by
  obtain ⟨hgeneral, hreserve, hfull, hsum⟩ := h
  rw [Store.free_eq]
  unfold Store.agrees
  split <;> dsimp only <;> omega

theorem Store.agrees_foldl_free (xs : List Rec) {st : Store} {n : Nat} (h : st.agrees (n + xs.length)) :
    (xs.foldl (fun st _ => st.free) st).agrees n := by
  induction xs generalizing st with
  | nil => exact h
  | cons x xs ih => exact ih (Store.agrees_free h)

/-- A freed record can be taken. -/
theorem Store.free_available (st : Store) : 0 < st.free.freeGeneral ∨ 0 < st.free.freeReserve := by
  rw [Store.free_eq]
  split <;> dsimp only <;> omega

/-- A record of a route in its ranges (R25, R46). -/
def Rec.inRange (r : RouteNo) (x : Rec) : Prop := 1 ≤ x.count ∧ x.count ≤ 255 ∧ x.route = r

theorem Rec.inRange_of_standing {r : RouteNo} {x y : Rec} (h : y.standing = x.standing) (hx : x.inRange r) : y.inRange r := by
  obtain ⟨hcount, hroute⟩ := Prod.mk.inj h
  unfold Rec.inRange
  rw [hcount, hroute]
  exact hx

theorem Rec.fold_inRange {r : RouteNo} {x : Rec} (o : Occurrence) (h : x.inRange r) : (x.fold o).inRange r := by
  obtain ⟨hlow, hhigh, hroute⟩ := h
  unfold Rec.inRange Rec.fold
  dsimp only
  refine ⟨?_, ?_, hroute⟩ <;> split <;> omega

theorem newRec_inRange (o : Occurrence) (r : RouteNo) (q : Seq) : (newRec o r q).inRange r :=
  ⟨Nat.le_refl 1, (by decide : 1 ≤ 255), rfl⟩

/-- A route in its ranges: the queue within its depth of 1 to 64, the tally, and every record (R25, R43, R46, R48, R53). -/
structure Route.inOrder (r : RouteNo) (t : Route) : Prop where
  depthLow : 1 ≤ t.cfg.depth
  depthHigh : t.cfg.depth ≤ 64
  fits : t.queue.length ≤ t.cfg.depth
  lost : t.lost ≤ 65535
  records : ∀ x ∈ t.queue, x.inRange r

theorem Route.inOrder_of_empty {r : RouteNo} {t : Route} (hlow : 1 ≤ t.cfg.depth) (hhigh : t.cfg.depth ≤ 64)
    (hqueue : t.queue = []) (hlost : t.lost = 0) : t.inOrder r := by
  refine ⟨hlow, hhigh, ?_, ?_, fun x hx => ?_⟩
  · rw [hqueue]
    exact Nat.zero_le _
  · rw [hlost]
    exact Nat.zero_le _
  · rw [hqueue] at hx
    exact absurd hx List.not_mem_nil

theorem Route.SameRecords.length {t u : Route} (h : t.SameRecords u) : u.queue.length = t.queue.length := by
  simpa using congrArg List.length h.queue

theorem Route.SameRecords.inOrder {r : RouteNo} {t u : Route} (h : t.SameRecords u) (ht : t.inOrder r) : u.inOrder r := by
  refine ⟨h.depth ▸ ht.depthLow, h.depth ▸ ht.depthHigh, ?_, h.lost ▸ ht.lost, fun x hx => ?_⟩
  · rw [h.length, h.depth]
    exact ht.fits
  · have hmem : x.standing ∈ t.queue.map Rec.standing := h.queue ▸ List.mem_map_of_mem hx
    obtain ⟨y, hy, hxy⟩ := List.mem_map.1 hmem
    exact Rec.inRange_of_standing hxy.symm (ht.records y hy)

/-- The records stay in range when the queue holds no other ones. -/
theorem Route.inOrder.lose {r : RouteNo} {t : Route} (h : t.inOrder r) (n : Nat) {queue : List Rec}
    (hlen : queue.length ≤ t.queue.length) (hmem : ∀ x ∈ queue, x ∈ t.queue) :
    (Route.lose n { t with queue := queue }).inOrder r :=
  ⟨h.depthLow, h.depthHigh, Nat.le_trans hlen h.fits, Nat.min_le_right .., fun x hx => h.records x (hmem x hx)⟩

/-- The pools agree with the queues, and every route is in order (R25, R26, R28, R43, R46, R48, R53). -/
def State.recordsInOrder (s : State) : Prop := s.store.agrees s.queued ∧ ∀ r, (s.route r).inOrder r

theorem recordsInOrder_iff (s : State) : s.recordsInOrder ↔ s.poolsAgree ∧ s.queuesFit ∧ s.recordsInRange := by
  constructor
  · rintro ⟨hpools, hroutes⟩
    exact ⟨hpools, fun r => ⟨(hroutes r).depthLow, (hroutes r).depthHigh, (hroutes r).fits⟩,
      fun r => ⟨(hroutes r).lost, (hroutes r).records⟩⟩
  · rintro ⟨hpools, hfit, hrange⟩
    refine ⟨hpools, fun r => ?_⟩
    obtain ⟨hlow, hhigh, hlen⟩ := hfit r
    obtain ⟨hlost, hrecords⟩ := hrange r
    exact ⟨hlow, hhigh, hlen, hlost, hrecords⟩

/-! #### Changes of one route -/

/-- `t` has the routes of `s`, but `u` for route `r`. -/
def ChangesRoute (r : RouteNo) (u : Route) (s t : State) : Prop := ∀ q, t.route q = if q = r then u else s.route q

theorem ChangesRoute.queuedOn {r : RouteNo} {u : Route} {s t : State} (h : ChangesRoute r u s t) (rs : List RouteNo)
    (hrs : rs.Nodup) :
    queuedOn t rs + (if r ∈ rs then (s.route r).queue.length else 0) =
      queuedOn s rs + if r ∈ rs then u.queue.length else 0 := by
  induction rs with
  | nil => rfl
  | cons q rs ih =>
    rw [List.nodup_cons] at hrs
    obtain ⟨hq, hrs⟩ := hrs
    have hrest := ih hrs
    unfold Machine.queuedOn at hrest ⊢
    simp only [List.map_cons, List.sum_cons, h q]
    by_cases e : q = r
    · subst e
      simp only [hq, if_false, List.mem_cons_self, if_true] at hrest ⊢
      omega
    · have hmem : r ∈ q :: rs ↔ r ∈ rs := by simp [List.mem_cons, Ne.symm e]
      simp only [e, if_false, hmem]
      omega

theorem ChangesRoute.queued {r : RouteNo} {u : Route} {s t : State} (h : ChangesRoute r u s t) :
    t.queued + (s.route r).queue.length = s.queued + u.queue.length := by
  have hall := h.queuedOn allRoutes (by decide)
  rw [if_pos (allRoutes_mem r), if_pos (allRoutes_mem r)] at hall
  exact hall

/-- A change of one route keeps the records in order when the route is in order after it and the store agrees with it. -/
theorem ChangesRoute.recordsInOrder {r : RouteNo} {u : Route} {s t : State} (h : ChangesRoute r u s t) (hs : s.recordsInOrder)
    (hu : u.inOrder r)
    (hstore : ∀ n, n + (s.route r).queue.length = s.queued + u.queue.length → t.store.agrees n) : t.recordsInOrder := by
  refine ⟨hstore _ h.queued, fun q => ?_⟩
  rw [h q]
  split
  next e => exact e ▸ hu
  next => exact hs.2 q

theorem ChangesRoute.updRoute (r : RouteNo) (f : Route → Route) (s : State) :
    ChangesRoute r (f (s.route r)) s (s.updRoute r f) := fun q => State.route_updRoute r q f s

/-- A change of one route that keeps the length of its queue. -/
theorem recordsInOrder_updRoute {r : RouteNo} {f : Route → Route} {s : State} (hs : s.recordsInOrder)
    (hlen : (f (s.route r)).queue.length = (s.route r).queue.length) (hf : (f (s.route r)).inOrder r) :
    (s.updRoute r f).recordsInOrder :=
  (ChangesRoute.updRoute r f s).recordsInOrder hs hf fun n hn => by
    rw [hlen] at hn
    exact Nat.add_right_cancel hn ▸ hs.1

theorem recordsInOrder_lose {r : RouteNo} {s : State} (hs : s.recordsInOrder) (n : Nat) :
    (s.updRoute r (Route.lose n)).recordsInOrder :=
  recordsInOrder_updRoute hs rfl ((hs.2 r).lose n (Nat.le_refl _) fun _ hx => hx)

theorem recordsInOrder_beside {s t : State} (h : KeepsRecords s t) (hs : s.recordsInOrder) : t.recordsInOrder := by
  obtain ⟨hpools, hroutes⟩ := hs
  have hqueued : t.queued = s.queued :=
    congrArg List.sum (List.map_congr_left fun r _ => (h.route r).length)
  refine ⟨?_, fun r => (h.route r).inOrder (hroutes r)⟩
  rw [h.store, hqueued]
  exact hpools

theorem recordsInOrder_overflowReported {s : State} (hs : s.recordsInOrder) (o : Occurrence) (r : RouteNo) :
    (overflowReported o r s).recordsInOrder := by
  rw [overflowReported_held]
  exact recordsInOrder_beside (.of_eq rfl rfl rfl) hs

/-- Records that leave a queue close: what is left of the queue, and a tally that saturates, keep the records in order. -/
theorem recordsInOrder_closeAll {r : RouteNo} {f : Route → Route} {s : State} {xs : List Rec} (hs : s.recordsInOrder)
    (hlen : xs.length + (f (s.route r)).queue.length = (s.route r).queue.length) (hf : (f (s.route r)).inOrder r)
    (out : CloseOutcome) (time : Time) : ((s.updRoute r f).closeAll out time xs).recordsInOrder := by
  have hchange : ChangesRoute r (f (s.route r)) s ((s.updRoute r f).closeAll out time xs) := fun q => by
    rw [closeAll_eq]
    exact State.route_updRoute r q f s
  refine hchange.recordsInOrder hs hf fun n hn => ?_
  have hn' : n + xs.length = s.queued := by omega
  rw [closeAll_eq]
  exact Store.agrees_foldl_free xs (hn' ▸ hs.1)

/-! #### The changes of a step -/

theorem recordsInOrder_fold {o : Occurrence} {r : RouteNo} {s : State} {front back : List Rec} {x : Rec}
    (hs : s.recordsInOrder) (hqueue : (s.route r).queue = front ++ x :: back) :
    (s.updRoute r fun t => { t with queue := front ++ x.fold o :: back }).recordsInOrder := by
  have hlen : (front ++ x.fold o :: back).length = (s.route r).queue.length := by simp [hqueue]
  have hr := hs.2 r
  refine recordsInOrder_updRoute hs hlen ⟨hr.depthLow, hr.depthHigh, hlen ▸ hr.fits, hr.lost, fun y hy => ?_⟩
  have hold : ∀ z ∈ front ++ x :: back, z.inRange r := hqueue ▸ hr.records
  rw [List.forall_mem_append, List.forall_mem_cons] at hold
  obtain ⟨hfront, hx, hback⟩ := hold
  obtain hy | rfl | hy := by simpa using hy
  · exact hfront y hy
  · exact Rec.fold_inRange o hx
  · exact hback y hy

theorem recordsInOrder_createRec {o : Occurrence} {r : RouteNo} {s : State} (hs : s.recordsInOrder)
    (hroom : (s.route r).queue.length < (s.route r).cfg.depth)
    (hfree : 0 < s.store.freeGeneral ∨ 0 < s.store.freeReserve) : (createRec o r s).recordsInOrder := by
  have hr := hs.2 r
  refine ChangesRoute.recordsInOrder (fun q => createRec_route o r q s) hs
    ⟨hr.depthLow, hr.depthHigh, ?_, hr.lost, fun x hx => ?_⟩ fun n hn => ?_
  · simpa using hroom
  · obtain hx | rfl := by simpa using hx
    · exact hr.records x hx
    · exact newRec_inRange o r _
  · have hn' : n = s.queued + 1 := by
      simp only [List.length_append, List.length_singleton] at hn
      omega
    rw [createRec_store, hn']
    exact Store.agrees_take hs.1 hfree

theorem recordsInOrder_afterDrop {o : Occurrence} {r : RouteNo} {s : State} {front back : List Rec} {x : Rec}
    (hs : s.recordsInOrder) (hqueue : (s.route r).queue = front ++ x :: back) :
    (afterDrop o r x (front ++ back) s).recordsInOrder := by
  have hroute := overflowReported_route o r s r
  have hr := (recordsInOrder_overflowReported hs o r).2 r
  rw [← hroute] at hqueue
  refine recordsInOrder_closeAll (f := fun t => Route.lose x.count { t with queue := front ++ back })
    (recordsInOrder_overflowReported hs o r) ?_ (hr.lose x.count ?_ fun y hy => ?_) .dropped s.timebase
  · rw [hqueue]
    simp [Route.lose]
    omega
  · simp [hqueue]
  · rw [hqueue]
    simp only [List.mem_append, List.mem_cons] at hy ⊢
    exact hy.imp_right .inr

/-- A dropped record leaves room on its route. -/
theorem afterDrop_room {o : Occurrence} {r : RouteNo} {s : State} {front back : List Rec} {x : Rec} (hs : s.recordsInOrder)
    (hqueue : (s.route r).queue = front ++ x :: back) :
    ((afterDrop o r x (front ++ back) s).route r).queue.length < ((afterDrop o r x (front ++ back) s).route r).cfg.depth := by
  have hfits := (hs.2 r).fits
  rw [hqueue] at hfits
  rw [afterDrop_route, if_pos rfl]
  change (front ++ back).length < (s.route r).cfg.depth
  simp only [List.length_append, List.length_cons] at hfits ⊢
  omega

theorem recordsInOrder_offer (o : Occurrence) (r : RouteNo) (s : State) (hs : s.recordsInOrder) :
    (offer o r s).2.recordsInOrder := by
  obtain ⟨front, x, back, hqueue, h⟩ | h | ⟨ha, hroom, h⟩ | ⟨front, x, back, hqueue, -, -, h⟩ | h := offer_cases o r s <;>
    rw [h]
  · exact recordsInOrder_fold hs hqueue
  · exact recordsInOrder_lose hs 1
  · exact recordsInOrder_createRec hs hroom (ha.imp_right And.right)
  · refine recordsInOrder_createRec (recordsInOrder_afterDrop hs hqueue) (afterDrop_room hs hqueue) ?_
    rw [afterDrop_store]
    exact Store.free_available s.store
  · exact recordsInOrder_lose (recordsInOrder_overflowReported hs o r) 1

theorem recordsInOrder_configureRoute (r : RouteNo) (cfg : RouteConfig) (s : State) (hlow : 1 ≤ cfg.depth)
    (hhigh : cfg.depth ≤ 64) (hoffered : offeredCount (s.route r).queue ≤ cfg.depth) (hs : s.recordsInOrder) :
    (configureRoute r cfg s).recordsInOrder :=
  recordsInOrder_closeAll hs (splitPending_length ..)
    ⟨hlow, hhigh, cutToDepth_fits hoffered, Nat.min_le_right ..,
      fun x hx => (hs.2 r).records x ((splitPending_sublist ..).subset hx)⟩ .dropped s.timebase

theorem recordsInOrder_completeBatch (r : RouteNo) (k : Nat) (b : Batch) (s : State) (hs : s.recordsInOrder) :
    (completeBatch r k b s).recordsInOrder := by
  have hr := hs.2 r
  refine recordsInOrder_closeAll hs ?_ ⟨hr.depthLow, hr.depthHigh, ?_, ?_, fun x hx => ?_⟩ .serviced s.timebase
  · simp only [Route.serviced, List.length_map, List.length_take, List.length_drop]
    omega
  · have hfits := hr.fits
    simp only [Route.serviced, List.length_map, List.length_drop]
    omega
  · exact Nat.le_trans (Nat.sub_le ..) hr.lost
  · obtain ⟨y, hy, rfl⟩ := List.mem_map.1 hx
    exact Rec.inRange_of_standing y.returned_standing (hr.records y (List.mem_of_mem_drop hy))

/-- A part whose queues are empty, with the pools of hard reset. -/
theorem recordsInOrder_of_empty {s : State} (hgeneral : s.store.freeGeneral = 248) (hreserve : s.store.freeReserve = 8)
    (hqueue : ∀ r, (s.route r).queue = []) (hroute : ∀ r, (s.route r).inOrder r) : s.recordsInOrder := by
  have hqueued : s.queued = 0 := by simp [State.queued, queuedOn, hqueue]
  refine ⟨?_, hroute⟩
  unfold Store.agrees
  rw [hgeneral, hreserve, hqueued]
  decide

theorem recordsInOrder_keeps : StepKeeps State.recordsInOrder where
  beside := recordsInOrder_beside
  offer := recordsInOrder_offer
  configure := recordsInOrder_configureRoute
  complete := recordsInOrder_completeBatch
  softReset s hs := by
    refine recordsInOrder_of_empty ?_ ?_ (fun r => ?_) fun r => ?_
    · rw [softReset_store]
      rfl
    · rw [softReset_store]
      rfl
    · rw [softReset_route]
      rfl
    · rw [softReset_route]
      exact Route.inOrder_of_empty (hs.2 r).depthLow (hs.2 r).depthHigh rfl rfl
  fresh s hstore _ hroute := by
    refine recordsInOrder_of_empty (by rw [hstore]; rfl) (by rw [hstore]; rfl) (fun r => ?_) fun r => ?_
    · rw [hroute]
      rfl
    · rw [hroute]
      exact Route.inOrder_of_empty (by decide : 1 ≤ 32) (by decide : 32 ≤ 64) rfl rfl

/-- Settles O56: creating, closing and cutting move records between the pools and the queues, one for one. -/
theorem stepKeepsStoreAndQueues : Obligations.StepKeepsStoreAndQueues :=
  fun s t h hs => (recordsInOrder_iff t).1 (recordsInOrder_keeps.step h ((recordsInOrder_iff s).2 hs))

end Sys2Proof.Machine

namespace Sys2Proof.Machine

/-! ## Routes and route queues -/

/-! ### O15, O16: a full route that refuses room -/

/-- A full route with nothing to drop loses the occurrence: the overflow is reported, the tally grows by one, and the queue
and the state of the route stand (R49, R51, R52). -/
theorem offer_of_noneToDrop {o : Occurrence} {r : RouteNo} {s : State} (hn : NothingToFold o r s) (ha : RecordAvailable o s)
    (hfull : (s.route r).cfg.depth ≤ (s.route r).queue.length)
    (hdrop : (s.route r).cfg.policy = .dropNew ∨ splitOldestPending (s.route r).queue = none) :
    ∃ t, offer o r s = (.lost, t) ∧
      t = (overflowReported o r s).updRoute r (fun u => { u with lost := min (u.lost + 1) 65535 }) ∧
      (t.route r).queue = (s.route r).queue ∧ (t.route r).state = (s.route r).state := by
  refine ⟨_, offer_of_noRoom (foldOffered_of_nothingToFold hn) ha (makeRoom_of_noneToDrop hfull hdrop), rfl, ?_⟩
  rw [State.route_updRoute_same, overflowReported_route]
  exact ⟨rfl, rfl⟩

/-- Settles O15: a DROP_NEW route drops nothing. -/
theorem dropNewRefusesRoom : Obligations.DropNewRefusesRoom :=
  fun _ _ _ hn ha hfull hpolicy => offer_of_noneToDrop hn ha hfull (.inl hpolicy)

/-- Settles O16: a DROP_OLD route whose records are all OFFERED has none to drop. -/
theorem dropOldWithAllOfferedRefusesRoom : Obligations.DropOldWithAllOfferedRefusesRoom :=
  fun _ _ _ hn ha hfull _ hoffered => offer_of_noneToDrop hn ha hfull (.inr (splitOldestPending_allOffered _ hoffered))

/-! ### O52: ROUTE-SET -/

/-- A check that refuses in a row of checks. -/
theorem Result.bind_eq_error {α β : Type} {x : Except Result α} {f : α → Except Result β} {e : Result}
    (h : (x >>= f) = .error e) : x = .error e ∨ ∃ a, x = .ok a ∧ f a = .error e := by
  cases x with
  | error r =>
    cases h
    exact .inl rfl
  | ok a => exact .inr ⟨a, rfl, h⟩

theorem readRange_eq_ok {low high n : Nat} {b : Byte} (h : readRange low high b = .ok n) :
    n = b.toNat ∧ low ≤ b.toNat ∧ b.toNat ≤ high := by
  unfold readRange at h
  split at h
  next hb =>
    cases h
    exact ⟨rfl, hb⟩
  · cases h

theorem readFlag_eq_ok {b : Byte} {v : Bool} (h : readFlag b = .ok v) : b.toNat ≤ 1 := by
  by_contra hb
  rw [readFlag_bad (Nat.not_le.1 hb)] at h
  cases h

theorem readPolicy_eq_ok {b : Byte} {v : Policy} (h : readPolicy b = .ok v) : b.toNat ≤ 1 := by
  by_contra hb
  rw [readPolicy_bad (Nat.not_le.1 hb)] at h
  cases h

/-- A check whose only refusal is BAD_VALUE. -/
def RefusesBadValue {α : Type} (x : Except Result α) : Prop := ∀ e, x = .error e → e = .badValue

theorem RefusesBadValue.bind {α β : Type} {x : Except Result α} {f : α → Except Result β} (hx : RefusesBadValue x)
    (hf : ∀ a, RefusesBadValue (f a)) : RefusesBadValue (x >>= f) := by
  intro e h
  obtain h | ⟨a, -, h⟩ := Result.bind_eq_error h
  · exact hx e h
  · exact hf a e h

theorem RefusesBadValue.readRange (low high : Nat) (b : Byte) : RefusesBadValue (readRange low high b) := by
  intro e h
  unfold Machine.readRange at h
  split at h
  · cases h
  · cases h
    rfl

theorem RefusesBadValue.readFlag (b : Byte) : RefusesBadValue (readFlag b) := by
  intro e h
  obtain ⟨v, hv, -⟩ | ⟨-, hv⟩ := readFlag_cases b
  · rw [hv] at h
    cases h
  · rw [hv] at h
    cases h
    rfl

theorem RefusesBadValue.readPolicy (b : Byte) : RefusesBadValue (readPolicy b) := by
  intro e h
  by_cases hb : 1 < b.toNat
  · rw [readPolicy_bad hb] at h
    cases h
    rfl
  · obtain ⟨v, hv⟩ := readPolicy_good hb
    rw [hv] at h
    cases h

/-- Every field of a route's configuration is refused with BAD_VALUE (R59). -/
theorem RefusesBadValue.readRouteConfig
    (priority depth policy batchMax timeout retries wake failover takeover masked : Byte) :
    RefusesBadValue (readRouteConfig priority depth policy batchMax timeout retries wake failover takeover masked) :=
  (RefusesBadValue.readRange 0 3 priority).bind fun _ => (RefusesBadValue.readRange 1 64 depth).bind fun _ =>
    (RefusesBadValue.readPolicy policy).bind fun _ => (RefusesBadValue.readRange 1 16 batchMax).bind fun _ =>
    (RefusesBadValue.readRange 0 7 retries).bind fun _ => (RefusesBadValue.readFlag wake).bind fun _ =>
    (RefusesBadValue.readFlag failover).bind fun _ => (RefusesBadValue.readFlag takeover).bind fun _ =>
    (RefusesBadValue.readFlag masked).bind fun _ _ h => nomatch h

/-- What the fields of a configuration that passes are, and the ranges that they have passed (R43, R59). -/
theorem readRouteConfig_eq_ok {priority depth policy batchMax timeout retries wake failover takeover masked : Byte}
    {c : RouteConfig}
    (h : readRouteConfig priority depth policy batchMax timeout retries wake failover takeover masked = .ok c) :
    (c.priority = priority.toNat ∧ c.batchMax = batchMax.toNat ∧ c.serviceTimeout = timeout.toNat ∧
        c.retries = retries.toNat) ∧
      priority.toNat ≤ 3 ∧ (1 ≤ depth.toNat ∧ depth.toNat ≤ 64) ∧ policy.toNat ≤ 1 ∧
      (1 ≤ batchMax.toNat ∧ batchMax.toNat ≤ 16) ∧ retries.toNat ≤ 7 ∧ wake.toNat ≤ 1 ∧ failover.toNat ≤ 1 ∧
      takeover.toNat ≤ 1 ∧ masked.toNat ≤ 1 := by
  obtain ⟨_, hpriority, h⟩ := Result.bind_eq_ok h
  obtain ⟨_, hdepth, h⟩ := Result.bind_eq_ok h
  obtain ⟨_, hpolicy, h⟩ := Result.bind_eq_ok h
  obtain ⟨_, hbatch, h⟩ := Result.bind_eq_ok h
  obtain ⟨_, hretries, h⟩ := Result.bind_eq_ok h
  obtain ⟨_, hwake, h⟩ := Result.bind_eq_ok h
  obtain ⟨_, hfailover, h⟩ := Result.bind_eq_ok h
  obtain ⟨_, htakeover, h⟩ := Result.bind_eq_ok h
  obtain ⟨_, hmasked, h⟩ := Result.bind_eq_ok h
  cases h
  obtain ⟨rfl, -, hpriority⟩ := readRange_eq_ok hpriority
  obtain ⟨-, hdepth⟩ := readRange_eq_ok hdepth
  obtain ⟨rfl, hbatchMax⟩ := readRange_eq_ok hbatch
  obtain ⟨rfl, -, hretries⟩ := readRange_eq_ok hretries
  exact ⟨⟨rfl, rfl, rfl, rfl⟩, hpriority, hdepth, readPolicy_eq_ok hpolicy, hbatchMax, hretries, readFlag_eq_ok hwake,
    readFlag_eq_ok hfailover, readFlag_eq_ok htakeover, readFlag_eq_ok hmasked⟩

/-- A field of the configuration that is out of range is refused (R59). -/
theorem readRouteConfig_bad {priority depth policy batchMax retries wake failover takeover masked : Byte} (timeout : Byte)
    (h : 3 < priority.toNat ∨ depth.toNat = 0 ∨ 64 < depth.toNat ∨ 1 < policy.toNat ∨ batchMax.toNat = 0 ∨
      16 < batchMax.toNat ∨ 7 < retries.toNat ∨ 1 < wake.toNat ∨ 1 < failover.toNat ∨ 1 < takeover.toNat ∨
      1 < masked.toNat) :
    readRouteConfig priority depth policy batchMax timeout retries wake failover takeover masked = .error .badValue := by
  cases e : readRouteConfig priority depth policy batchMax timeout retries wake failover takeover masked with
  | error r => rw [RefusesBadValue.readRouteConfig _ _ _ _ _ _ _ _ _ _ r e]
  | ok c =>
    obtain ⟨-, hranges⟩ := readRouteConfig_eq_ok e
    omega

/-- A route's settings in range, the depth aside (R43). -/
def RouteConfig.inRange (c : RouteConfig) : Prop :=
  c.priority ≤ 3 ∧ 1 ≤ c.batchMax ∧ c.batchMax ≤ 16 ∧ c.serviceTimeout ≤ 255 ∧ c.retries ≤ 7

theorem readRange_byte {low high n : Nat} (h : low ≤ n ∧ n ≤ high) (hbyte : high ≤ 255) :
    readRange low high (byte n) = .ok n := by
  have hn : (byte n).toNat = n := byte_toNat n (by omega)
  rw [readRange_ok (by rwa [hn]), hn]

/-- The fields of a configuration in range read back as it. -/
theorem readRouteConfig_of_codes {c : RouteConfig} (h : c.inRange) (hdepth : 1 ≤ c.depth ∧ c.depth ≤ 64) :
    readRouteConfig (byte c.priority) (byte c.depth) (policyCode c.policy) (byte c.batchMax) (byte c.serviceTimeout)
      (byte c.retries) (flagCode c.wake) (flagCode c.failover) (flagCode c.takeover) (flagCode c.masked) = .ok c := by
  obtain ⟨hpriority, hlow, hhigh, htimeout, hretries⟩ := h
  unfold readRouteConfig
  rw [readRange_byte ⟨Nat.zero_le _, hpriority⟩ (by decide), readRange_byte hdepth (by decide), readPolicy_policyCode,
    readRange_byte ⟨hlow, hhigh⟩ (by decide), readRange_byte ⟨Nat.zero_le _, hretries⟩ (by decide), byte_toNat _ (by omega)]
  simp only [readFlag_flagCode, Result.ok_bind]
  rfl

theorem readRouteSet_badRoute {b0 : Byte} (h : 8 ≤ b0.toNat) (b1 b2 b3 b4 b5 b6 b7 b8 b9 b10 : Byte) :
    readRouteSet [b0, b1, b2, b3, b4, b5, b6, b7, b8, b9, b10] = .error .badRoute := by
  unfold readRouteSet
  dsimp only
  rw [readRoute_bad h]
  rfl

/-- With its route in range, ROUTE-SET carries the configuration that its other fields spell. -/
theorem readRouteSet_of_route {b0 : Byte} {r : RouteNo} (h : b0.toNat = r.val) (b1 b2 b3 b4 b5 b6 b7 b8 b9 b10 : Byte) :
    readRouteSet [b0, b1, b2, b3, b4, b5, b6, b7, b8, b9, b10] =
      (readRouteConfig b1 b2 b3 b4 b5 b6 b7 b8 b9 b10).map fun c => (r, c) := by
  unfold readRouteSet
  dsimp only
  rw [readRoute_ok h]
  rfl

/-- On a queue of OFFERED records with PENDING ones behind them, a new depth cuts the oldest PENDING records (R61). -/
theorem cutToDepth_of_offeredThenPending {depth : Nat} {offered pending : List Rec} (ho : ∀ x ∈ offered, x.state = .offered)
    (hp : ∀ x ∈ pending, x.state = .pending) (hfit : offered.length ≤ depth) :
    cutToDepth depth (offered ++ pending) =
      (pending.take (offered.length + pending.length - depth),
        offered ++ pending.drop (offered.length + pending.length - depth)) := by
  unfold cutToDepth
  rw [List.length_append]
  exact splitPending_of_prefix _ offered pending ho hp (by omega)

theorem routeSetChecked_of_notOwner {p : Port} {r : RouteNo} {s : State} (h : (s.route r).owner = some (otherPort p))
    (tag : Byte) (c : RouteConfig) : routeSetChecked p tag (r, c) s = refuse p routeSetCode tag .notOwner s := if_pos h

theorem routeSetChecked_of_busy {p : Port} {r : RouteNo} {c : RouteConfig} {s : State}
    (h : (s.route r).owner ≠ some (otherPort p)) (hd : c.depth < offeredCount (s.route r).queue) (tag : Byte) :
    routeSetChecked p tag (r, c) s = refuse p routeSetCode tag .busy s := (if_neg h).trans (if_pos hd)

theorem routeSetChecked_of_allowed {p : Port} {r : RouteNo} {c : RouteConfig} {s : State}
    (h : (s.route r).owner ≠ some (otherPort p)) (hd : offeredCount (s.route r).queue ≤ c.depth) (tag : Byte) :
    routeSetChecked p tag (r, c) s =
      handOnHeld (configChanged p routeSetCode (handOnNow ((configureRoute r c s).withReply p
        [0xA0, tag, 0x00, byte (cutToDepth c.depth (s.route r).queue).1.length]))) :=
  (if_neg h).trans (if_neg (Nat.not_lt.2 hd))

/-- The effect of ROUTE-SET beside its reply, on a queue of OFFERED records with PENDING ones behind them (R61). -/
theorem configureRoute_withReply_of_offeredThenPending {r : RouteNo} {c : RouteConfig} {s : State}
    {offered pending : List Rec} (hq : (s.route r).queue = offered ++ pending) (ho : ∀ x ∈ offered, x.state = .offered)
    (hp : ∀ x ∈ pending, x.state = .pending) (hfit : offered.length ≤ c.depth) (p : Port) (m : List Byte) :
    (configureRoute r c s).withReply p m =
      ((s.withReply p m).updRoute r fun t =>
        { t with
          cfg := c, queue := offered ++ pending.drop (offered.length + pending.length - c.depth)
          lost := min (t.lost + ((pending.take (offered.length + pending.length - c.depth)).map Rec.count).sum) 65535
          }).closeAll .dropped s.timebase (pending.take (offered.length + pending.length - c.depth)) := by
  unfold configureRoute
  rw [hq, cutToDepth_of_offeredThenPending ho hp hfit, ← countSum_eq_sum]
  exact (State.closeAll_withReply ..).symm

/-- Settles O52: the checks in their order, then the owner and the depth, and the effect of a configuration that passes. -/
theorem routeIsConfigured : Obligations.RouteIsConfigured := by
  intro p tag b0 b1 b2 b3 b4 b5 b6 b7 b8 b9 b10 s fields h refused
  have hexec : exec (.routeSet p (tag :: fields)) s =
      .next (checked p routeSetCode tag (readRouteSet fields) (routeSetChecked p tag) (s.afterTake p)) :=
    taken_request_tag h (routeSetWith p)
  have hrefused : ∀ r, readRouteSet fields = .error r → refused r.code := fun r hr => by
    rw [checked_error hr] at hexec
    exact hexec
  refine ⟨fun hr => ?_, fun hr hb => ?_, fun r c hb hpriority hlow hhigh hbatch hbatch' htimeout hretries => ?_⟩
  · exact hrefused .badRoute (readRouteSet_badRoute hr ..)
  · refine hrefused .badValue ((readRouteSet_of_route (r := ⟨b0.toNat, hr⟩) rfl ..).trans ?_)
    rw [readRouteConfig_bad b5 hb]
    rfl
  · have hread : readRouteSet fields = .ok (r, c) := by
      have hpolicy : (if c.policy = .dropNew then 0 else 1) = policyCode c.policy := by cases c.policy <;> rfl
      rw [hb, readRouteSet_of_route (byte_toNat r.val (by omega)), hpolicy,
        readRouteConfig_of_codes ⟨hpriority, hbatch, hbatch', htimeout, hretries⟩ ⟨hlow, hhigh⟩]
      rfl
    rw [checked_ok hread] at hexec
    refine ⟨fun howner => ?_, fun howner offered pending hq ho hp => ?_⟩
    · rw [routeSetChecked_of_notOwner (s := s.afterTake p) howner] at hexec
      exact hexec
    · have hcount : offeredCount ((s.afterTake p).route r).queue = offered.length := by
        rw [State.route_afterTake, hq, offeredCount_of_prefix offered pending ho hp]
      refine ⟨fun hdepth => ?_, fun hfit => ?_⟩
      · rw [routeSetChecked_of_busy (s := s.afterTake p) howner (hcount ▸ hdepth)] at hexec
        exact hexec
      · intro n u
        have hlen : (pending.take n).length = n := by
          rw [List.length_take]
          omega
        rw [routeSetChecked_of_allowed (s := s.afterTake p) howner (hcount ▸ hfit),
          configureRoute_withReply_of_offeredThenPending (s := s.afterTake p) hq ho hp hfit, State.route_afterTake, hq,
          cutToDepth_of_offeredThenPending ho hp hfit, configChanged_eq] at hexec
        dsimp only at hexec
        rw [hlen] at hexec
        exact hexec

end Sys2Proof.Machine

namespace Sys2Proof.Machine

/-! ## Batches, queues and settings

`State.ServiceInOrder` says entry by entry what `batchesAgree` and `settingsInRange` say of the part. First stands
what each change does to one route, then what it does to a port, then to the whole part. -/

/-- An action's settings in range (R113). -/
def ActionConfig.inRange (c : ActionConfig) : Prop := 1 ≤ c.grace ∧ c.grace ≤ 255

/-- The parameters of a session in range (R162); the window is a matter of the ports. -/
def Params.inRange (q : Params) : Prop :=
  64 ≤ q.maxPayload ∧ q.maxPayload ≤ 1024 ∧ q.silenceLimit ≤ 255 ∧ 1 ≤ q.retransmit ∧ q.retransmit ≤ 255

/-- A route without a batch: it offers nothing and runs no timer (R67). -/
structure Route.Rests (t : Route) : Prop where
  queue : offeredPrefix 0 t.queue
  timer : t.timer = none

/-- A route with batch `b` at its head, where `up` are the ports whose session is UP (R47, R54, R67, R105). -/
structure Route.Offers (up : Port → Prop) (b : Batch) (t : Route) : Prop where
  nonempty : 1 ≤ b.n
  queue : offeredPrefix b.n t.queue
  notStalled : t.stalled = false
  attempts : b.attempts ≤ b.retriesLimit
  timer : b.phase ≠ .timing → t.timer = none
  tag : b.tag = t.tagCounter
  owner : ∃ p, t.owner = some p ∧ up p

/-- A route whose settings are in range and whose queue agrees with its batch. -/
structure Route.InOrderFor (up : Port → Prop) (t : Route) : Prop where
  cfg : t.cfg.inRange
  rests : t.batch = none → t.Rests
  offers : ∀ b, t.batch = some b → t.Offers up b

/-- The session of port `p` is UP. -/
def State.up (s : State) (p : Port) : Prop := (s.port p).session = .up

/-- Batches, queues and sessions agree, and every setting is in its range. -/
structure State.ServiceInOrder (s : State) : Prop where
  sources : ∀ i, (s.source i).cfg.holdoff ≤ 255
  actions : ∀ n, (s.action n).cfg.inRange
  params : ∀ p, (s.port p).params.inRange
  routes : ∀ r, (s.route r).InOrderFor s.up

theorem batchesAgree_iff (s : State) :
    s.batchesAgree ↔ ∀ r, ((s.route r).batch = none → (s.route r).Rests) ∧
      ∀ b, (s.route r).batch = some b → (s.route r).Offers s.up b := by
  refine forall_congr' fun r => ?_
  cases e : (s.route r).batch with
  | none => exact ⟨fun ⟨hqueue, htimer⟩ => ⟨fun _ => ⟨hqueue, htimer⟩, nofun⟩, fun h => ⟨(h.1 rfl).queue, (h.1 rfl).timer⟩⟩
  | some b =>
    constructor
    · rintro ⟨hn, hqueue, hstalled, hattempts, htimer, htag, howner⟩
      refine ⟨nofun, fun b' hb => ?_⟩
      cases hb
      exact ⟨hn, hqueue, hstalled, hattempts, htimer, htag, howner⟩
    · intro h
      obtain ⟨hn, hqueue, hstalled, hattempts, htimer, htag, howner⟩ := h.2 b rfl
      exact ⟨hn, hqueue, hstalled, hattempts, htimer, htag, howner⟩

theorem State.serviceInOrder_iff (s : State) : s.ServiceInOrder ↔ s.batchesAgree ∧ s.settingsInRange := by
  rw [batchesAgree_iff]
  constructor
  · rintro ⟨hsources, hactions, hparams, hroutes⟩
    exact ⟨fun r => ⟨(hroutes r).rests, (hroutes r).offers⟩, hsources, fun r => (hroutes r).cfg, hactions, hparams⟩
  · rintro ⟨hbatches, hsources, hcfgs, hactions, hparams⟩
    exact ⟨hsources, hactions, hparams, fun r => ⟨hcfgs r, (hbatches r).1, (hbatches r).2⟩⟩

/-! ### Queues: OFFERED records at the head, PENDING ones behind them -/

theorem offeredPrefix_zero_iff (queue : List Rec) : offeredPrefix 0 queue ↔ ∀ x ∈ queue, x.state = .pending := by
  simp [offeredPrefix]

theorem offeredPrefix_iff_append (n : Nat) (queue : List Rec) :
    offeredPrefix n queue ↔ ∃ offered pending, queue = offered ++ pending ∧ offered.length = n ∧
      (∀ x ∈ offered, x.state = .offered) ∧ ∀ x ∈ pending, x.state = .pending := by
  constructor
  · rintro ⟨hn, ho, hp⟩
    exact ⟨queue.take n, queue.drop n, (List.take_append_drop n queue).symm, List.length_take_of_le hn, ho, hp⟩
  · rintro ⟨offered, pending, rfl, rfl, ho, hp⟩
    unfold offeredPrefix
    rw [List.take_left, List.drop_left]
    exact ⟨by simp, ho, hp⟩

/-- The occurrence folds into a record in its place (R30). -/
theorem offeredPrefix_fold {n : Nat} {front back : List Rec} {x : Rec} (h : offeredPrefix n (front ++ x :: back))
    (o : Occurrence) : offeredPrefix n (front ++ x.fold o :: back) := by
  have hstates : ∀ q : List Rec, offeredPrefix n q ↔ n ≤ (q.map Rec.state).length ∧
      (∀ y ∈ (q.map Rec.state).take n, y = .offered) ∧ ∀ y ∈ (q.map Rec.state).drop n, y = .pending := fun q => by
    simp [offeredPrefix, ← List.map_take, ← List.map_drop]
  rw [hstates] at h ⊢
  simpa [Rec.fold] using h

theorem offeredPrefix_append_pending {n : Nat} {queue : List Rec} (h : offeredPrefix n queue) {x : Rec}
    (hx : x.state = .pending) : offeredPrefix n (queue ++ [x]) := by
  obtain ⟨offered, pending, rfl, hn, ho, hp⟩ := (offeredPrefix_iff_append n queue).1 h
  refine (offeredPrefix_iff_append ..).2 ⟨offered, pending ++ [x], by rw [List.append_assoc], hn, ho, fun y hy => ?_⟩
  obtain hy | rfl := by simpa using hy
  · exact hp y hy
  · exact hx

/-- The oldest PENDING record leaves from behind the OFFERED ones (R47). -/
theorem offeredPrefix_splitOldestPending {n : Nat} {queue rest : List Rec} {x : Rec} (h : offeredPrefix n queue)
    (hx : splitOldestPending queue = some (x, rest)) : offeredPrefix n rest := by
  obtain ⟨offered, pending, rfl, hn, ho, hp⟩ := (offeredPrefix_iff_append n queue).1 h
  cases pending with
  | nil =>
    rw [List.append_nil, splitOldestPending_allOffered offered ho] at hx
    cases hx
  | cons y pending =>
    rw [splitOldestPending_first offered y pending ho (hp y (List.mem_cons_self ..))] at hx
    cases hx
    exact (offeredPrefix_iff_append ..).2 ⟨offered, pending, rfl, hn, ho, fun z hz => hp z (List.mem_cons_of_mem _ hz)⟩

/-- A depth that the OFFERED records meet cuts none of them (R60, R61). -/
theorem offeredPrefix_cutToDepth {n depth : Nat} {queue : List Rec} (h : offeredPrefix n queue)
    (hdepth : offeredCount queue ≤ depth) : offeredPrefix n (cutToDepth depth queue).2 := by
  obtain ⟨offered, pending, rfl, hn, ho, hp⟩ := (offeredPrefix_iff_append n queue).1 h
  rw [offeredCount_of_prefix offered pending ho hp] at hdepth
  rw [cutToDepth_of_offeredThenPending ho hp hdepth]
  exact (offeredPrefix_iff_append ..).2 ⟨offered, _, rfl, hn, ho, fun x hx => hp x (List.mem_of_mem_drop hx)⟩

theorem Rec.returned_state (x : Rec) : x.returned.state = .pending := by
  unfold Rec.returned
  cases h : x.state <;> simp [h]

/-- A queue whose records have returned offers none (R26). -/
theorem offeredPrefix_returned (queue : List Rec) : offeredPrefix 0 (queue.map Rec.returned) := by
  rw [offeredPrefix_zero_iff]
  intro x hx
  obtain ⟨y, -, rfl⟩ := List.mem_map.1 hx
  exact y.returned_state

/-- The first records of a queue that offers none become a batch (R72). -/
theorem offeredPrefix_offer {n : Nat} {queue : List Rec} (h : offeredPrefix 0 queue) (hn : n ≤ queue.length) :
    offeredPrefix n ((queue.take n).map Rec.offer ++ queue.drop n) := by
  rw [offeredPrefix_zero_iff] at h
  refine (offeredPrefix_iff_append ..).2 ⟨_, _, rfl, by simpa using hn, fun x hx => ?_,
    fun x hx => h x (List.mem_of_mem_drop hx)⟩
  obtain ⟨y, -, rfl⟩ := List.mem_map.1 hx
  rfl

/-- The fold of an offer changes one record of the queue in its place. -/
theorem foldOffered_some {o : Occurrence} {r : RouteNo} {s : State} {q : Seq} {queue : List Rec}
    (h : foldOffered o r s = some (q, queue)) :
    ∃ front x back, (s.route r).queue = front ++ x :: back ∧ queue = front ++ x.fold o :: back := by
  unfold foldOffered at h
  split at h
  · exact foldNewest_some h
  · cases h

/-- An offer leaves the OFFERED records where they are (R30, R32, R47, R50). -/
theorem offeredPrefix_queueAfterOffer {n : Nat} (o : Occurrence) (r : RouteNo) (s : State)
    (h : offeredPrefix n (s.route r).queue) : offeredPrefix n ((offer o r s).2.route r).queue := by
  cases hfold : foldOffered o r s with
  | some folded =>
    obtain ⟨q, queue⟩ := folded
    obtain ⟨front, x, back, hqueue, rfl⟩ := foldOffered_some hfold
    rw [offer_of_fold hfold, State.route_updRoute_same]
    exact offeredPrefix_fold (hqueue ▸ h) o
  | none =>
    by_cases ha : RecordAvailable o s
    · obtain ⟨-, hm⟩ | ⟨x, rest, hx, -, hm⟩ | hm := makeRoom_cases o r s
      · rw [offer_of_room hfold ha hm, createRec_route, if_pos rfl]
        exact offeredPrefix_append_pending h rfl
      · rw [offer_of_room hfold ha hm, createRec_route, if_pos rfl, afterDrop_route, if_pos rfl]
        exact offeredPrefix_append_pending (offeredPrefix_splitOldestPending h hx) rfl
      · rw [offer_of_noRoom hfold ha hm, State.route_updRoute_same, overflowReported_route]
        exact h
    · rw [offer_of_unavailable hfold ha, State.route_updRoute_same]
      exact h

/-! ### What changes of one route keep -/

variable {up up' : Port → Prop} {t : Route}

/-- Only the session of the owner counts. -/
theorem Route.InOrderFor.mono (h : t.InOrderFor up) (hup : ∀ p, t.owner = some p → up p → up' p) : t.InOrderFor up' := by
  refine ⟨h.cfg, h.rests, fun b hb => ?_⟩
  have hoffers := h.offers b hb
  obtain ⟨p, howner, hp⟩ := hoffers.owner
  exact { hoffers with owner := ⟨p, howner, hup p howner hp⟩ }

theorem Route.InOrderFor.of_rests (hcfg : t.cfg.inRange) (hbatch : t.batch = none) (h : t.Rests) : t.InOrderFor up :=
  ⟨hcfg, fun _ => h, fun _ hb => nomatch hbatch.symm.trans hb⟩

/-- A change of the queue that leaves the OFFERED records, of the tally and of the configuration. -/
theorem Route.InOrderFor.withQueue (h : t.InOrderFor up) {cfg : RouteConfig} (hcfg : cfg.inRange) {queue : List Rec}
    (hqueue : ∀ n, offeredPrefix n t.queue → offeredPrefix n queue) (lost : Nat) :
    Route.InOrderFor up { t with cfg := cfg, queue := queue, lost := lost } := by
  refine ⟨hcfg, fun hb => ?_, fun b hb => ?_⟩
  · have hrests := h.rests hb
    exact ⟨hqueue 0 hrests.queue, hrests.timer⟩
  · have hoffers := h.offers b hb
    exact { hoffers with queue := hqueue b.n hoffers.queue }

theorem Route.InOrderFor.returnBatch (h : t.InOrderFor up) : t.returnBatch.InOrderFor up' :=
  .of_rests h.cfg rfl ⟨offeredPrefix_returned t.queue, rfl⟩

theorem Route.InOrderFor.giveTo (h : t.InOrderFor up) (owner : Option Port) : (t.giveTo owner).InOrderFor up' :=
  .of_rests h.cfg rfl ⟨offeredPrefix_returned t.queue, rfl⟩

theorem Route.InOrderFor.stall (h : t.InOrderFor up) : t.stall.InOrderFor up' :=
  .of_rests h.cfg rfl ⟨offeredPrefix_returned t.queue, rfl⟩

theorem Route.InOrderFor.serviced (h : t.InOrderFor up) (k : Nat) (b : Batch) : (t.serviced k b).InOrderFor up' :=
  .of_rests h.cfg rfl ⟨offeredPrefix_returned (t.queue.drop k), rfl⟩

theorem Route.InOrderFor.emptied (h : t.InOrderFor up) : t.emptied.InOrderFor up' :=
  .of_rests h.cfg rfl ⟨(offeredPrefix_zero_iff []).2 (List.forall_mem_nil _), rfl⟩

theorem Route.InOrderFor.resumed (h : t.InOrderFor up) : Route.InOrderFor up { t with stalled := false } :=
  ⟨h.cfg, fun hb => ⟨(h.rests hb).queue, (h.rests hb).timer⟩, fun b hb => { h.offers b hb with notStalled := rfl }⟩

theorem Route.InOrderFor.tick (h : t.InOrderFor up) : t.tick.InOrderFor up := by
  have hnone : t.timer = none → t.tick.timer = none := fun ht => by
    unfold Route.tick
    rw [ht]
    rfl
  exact ⟨h.cfg, fun hb => ⟨(h.rests hb).queue, hnone (h.rests hb).timer⟩,
    fun b hb => { h.offers b hb with timer := fun hphase => hnone ((h.offers b hb).timer hphase) }⟩

/-- The batch of a route moves on to another phase: the timer runs in TIMING alone (R67, R76, R78). -/
theorem Route.InOrderFor.withPhase (h : t.InOrderFor up) {b : Batch} (hb : t.batch = some b) (b' : Batch) (hn : b'.n = b.n)
    (htag : b'.tag = b.tag) (hattempts : b'.attempts ≤ b'.retriesLimit) {timer : Option Nat}
    (htimer : b'.phase ≠ .timing → timer = none) : Route.InOrderFor up { t with batch := some b', timer := timer } := by
  refine ⟨h.cfg, nofun, fun b₁ hb₁ => ?_⟩
  cases hb₁
  have hoffers := h.offers b hb
  exact ⟨hn ▸ hoffers.nonempty, hn ▸ hoffers.queue, hoffers.notStalled, hattempts, htimer, htag ▸ hoffers.tag, hoffers.owner⟩

theorem Route.InOrderFor.offerAcked (h : t.InOrderFor up) (p : Port) (tag seq : Byte) :
    (t.offerAcked p tag seq).InOrderFor up := by
  unfold Route.offerAcked
  split
  · exact h
  next b hb =>
    have hattempts := (h.offers b hb).attempts
    split
    · split
      · exact h.withPhase hb { b with phase := .untimed } rfl rfl hattempts fun _ => rfl
      · exact h.withPhase hb { b with phase := .timing } rfl rfl hattempts fun hphase => absurd rfl hphase
    · exact h

/-- A route with a batch is IN_SERVICE (R54). -/
theorem Route.InOrderFor.state_of_batch (h : t.InOrderFor up) {b : Batch} (hb : t.batch = some b) :
    t.state = .inService := by
  obtain ⟨hn, hqueue, hstalled, -⟩ := h.offers b hb
  obtain ⟨offered, pending, hq, hlen, ho, -⟩ := (offeredPrefix_iff_append ..).1 hqueue
  obtain ⟨x, hx⟩ := List.exists_mem_of_length_pos (by omega : 0 < offered.length)
  have hany : (t.queue.any fun y => y.state == .offered) = true :=
    List.any_eq_true.2 ⟨x, by rw [hq]; exact List.mem_append_left _ hx, by rw [ho x hx]; rfl⟩
  unfold Route.state
  rw [hstalled, hany]
  rfl

theorem Route.state_ready (h : t.state = .ready) : t.stalled = false ∧ t.queue ≠ [] := by
  unfold Route.state at h
  split at h
  · cases h
  next hstalled =>
    split at h
    · cases h
    · split at h
      · cases h
      next hqueue => exact ⟨Bool.not_eq_true _ ▸ hstalled, fun hnil => hqueue (by rw [hnil]; rfl)⟩

/-- A batch formed on a READY route of a port that is UP (R57, R71 to R73). -/
theorem Route.InOrderFor.formBatch (h : t.InOrderFor up) (hready : t.state = .ready) {p : Port} (howner : t.owner = some p)
    (hup : up p) {n : Nat} (hn : 1 ≤ n) (hle : n ≤ t.queue.length) (frame : Byte) : (t.formBatch n frame).InOrderFor up := by
  have hbatch : t.batch = none := by
    cases hb : t.batch with
    | none => rfl
    | some b => exact nomatch (h.state_of_batch hb).symm.trans hready
  have hrests := h.rests hbatch
  refine ⟨h.cfg, nofun, fun b hb => ?_⟩
  cases hb
  exact ⟨hn, offeredPrefix_offer hrests.queue hle, (Route.state_ready hready).1, Nat.zero_le _, fun _ => hrests.timer, rfl,
    p, howner, hup⟩

/-- A batch on a route with records has at least one, and no more than there are (R71). -/
theorem batchSize_bounds {maxPayload : Nat} (hcfg : t.cfg.inRange) (hqueue : t.queue ≠ []) (hpayload : 64 ≤ maxPayload) :
    1 ≤ batchSize maxPayload t ∧ batchSize maxPayload t ≤ t.queue.length := by
  obtain ⟨-, hbatch, -⟩ := hcfg
  have hpos := List.length_pos_iff.2 hqueue
  unfold batchSize
  omega

end Sys2Proof.Machine

namespace Sys2Proof.Machine

/-! ### What changes of one port keep -/

/-- A change of a port that leaves it UP, and its parameters in range. -/
structure PortState.StaysUp (P Q : PortState) : Prop where
  params : P.params.inRange → Q.params.inRange
  up : P.session = .up → Q.session = .up

theorem PortState.StaysUp.refl (P : PortState) : P.StaysUp P := ⟨id, id⟩

theorem PortState.StaysUp.trans {P Q R : PortState} (h : P.StaysUp Q) (h' : Q.StaysUp R) : P.StaysUp R :=
  ⟨fun hp => h'.params (h.params hp), fun hs => h'.up (h.up hs)⟩

theorem PortState.StaysUp.of_eq {P Q : PortState} (hp : Q.params = P.params) (hs : Q.session = P.session) : P.StaysUp Q :=
  ⟨fun h => hp ▸ h, fun h => hs.trans h⟩

theorem PortState.StaysUp.ite {c : Prop} [Decidable c] {P Q R : PortState} (hQ : P.StaysUp Q) (hR : P.StaysUp R) :
    P.StaysUp (if c then Q else R) := by
  split
  · exact hQ
  · exact hR

/-- Such a change of a port that differs elsewhere alone. -/
theorem PortState.StaysUp.after {P Q R : PortState} (h : Q.StaysUp R) (hp : Q.params = P.params)
    (hs : Q.session = P.session) : P.StaysUp R := (StaysUp.of_eq hp hs).trans h

theorem Params.inRange_fallback : Params.fallback.inRange := by
  unfold Params.inRange
  decide

/-! #### The receiver -/

theorem PortState.StaysUp.record (set : ReportFlags → ReportFlags) (P : PortState) : P.StaysUp (P.record set) :=
  .ite (.refl P) (.of_eq rfl rfl)

theorem PortState.StaysUp.demand (P : PortState) : P.StaysUp P.demand := .ite (.refl P) (.of_eq rfl rfl)

theorem PortState.StaysUp.toHunt (P : PortState) : P.StaysUp P.toHunt := .of_eq rfl rfl

theorem PortState.StaysUp.withReceiver (P : PortState) (receiver : Receiver) : P.StaysUp { P with receiver := receiver } :=
  .of_eq rfl rfl

theorem PortState.StaysUp.takeSync (P : PortState) : P.StaysUp P.takeSync := by
  unfold PortState.takeSync
  cases P.receiver with
  | hunt => exact .withReceiver P _
  | header gathered => exact .refl P
  | payload header gathered => exact .refl P
  | skip left => exact .refl P

theorem PortState.StaysUp.judgeHeader (header : List Byte) (P : PortState) : P.StaysUp (P.judgeHeader header) :=
  .ite ((StaysUp.record _ P).trans (.withReceiver ..)) (.ite ((StaysUp.record _ P).trans (.withReceiver ..))
    (.ite ((StaysUp.record _ P).trans (.withReceiver ..)) (.withReceiver ..)))

theorem PortState.StaysUp.takeHeader (bytes : List Byte) (P : PortState) : P.StaysUp (P.takeHeader bytes) := by
  unfold PortState.takeHeader
  cases P.receiver with
  | hunt => exact .ite (.judgeHeader _ P) (.refl P)
  | header gathered => exact .ite (.judgeHeader _ P) (.refl P)
  | payload header gathered => exact .refl P
  | skip left => exact .refl P

theorem PortState.StaysUp.skipped (P : PortState) : P.StaysUp P.skipped := by
  unfold PortState.skipped
  cases P.receiver with
  | skip left => exact .toHunt P
  | hunt => exact .refl P
  | header gathered => exact .refl P
  | payload header gathered => exact .refl P

theorem PortState.StaysUp.discardPayload (data : Bool) (P : PortState) : P.StaysUp (P.discardPayload data) :=
  (StaysUp.record _ P).trans ((StaysUp.ite (.demand _) (.refl _)).trans (.toHunt _))

theorem PortState.StaysUp.abandon (P : PortState) : P.StaysUp P.abandon := by
  unfold PortState.abandon
  cases P.receiver with
  | hunt => exact .refl P
  | header gathered => exact (StaysUp.record _ P).trans (.toHunt _)
  | payload header gathered => exact .discardPayload _ P
  | skip left => exact .toHunt P

theorem PortState.StaysUp.takeBadPayload (ftype : FrameType) (bytes : List Byte) (P : PortState) :
    P.StaysUp (P.takeBadPayload ftype bytes) := .ite (.discardPayload _ P) (.refl P)

/-! #### Frames and sessions -/

theorem PortState.StaysUp.listen (P : PortState) : P.StaysUp P.listen := .ite (.of_eq rfl rfl) (.refl P)

theorem PortState.StaysUp.hearFrame (P : PortState) : P.StaysUp P.hearFrame := by
  refine StaysUp.trans (Q := { P with session := if P.session = .dormant then .up else P.session, heardNow := true })
    ⟨id, fun hs => ?_⟩ (.listen _)
  change (if P.session = .dormant then .up else P.session) = Session.up
  rw [hs]
  rfl

theorem PortState.StaysUp.hearAnnounce (P : PortState) : P.StaysUp P.hearAnnounce :=
  .ite (.toHunt P) ((StaysUp.toHunt P).trans (.hearFrame _))

theorem PortState.StaysUp.accept (requests : List Request) (P : PortState) : P.StaysUp (P.accept requests) :=
  ⟨id, fun _ => rfl⟩

theorem PortState.StaysUp.judge (seq : Byte) (payload : List Byte) (P : PortState) : P.StaysUp (P.judge seq payload) :=
  have flagged (set : ReportFlags → ReportFlags) : P.StaysUp (P.record set).demand :=
    (StaysUp.record set P).trans (.demand _)
  .ite (.ite (.accept _ P) (.ite (.accept _ P) (flagged _))) (.ite (.demand P) (.ite (flagged _) (flagged _)))

theorem PortState.StaysUp.acceptOpen (seq : Byte) (payload : List Byte) (P : PortState) :
    P.StaysUp (P.acceptOpen seq payload) := by
  refine ⟨id, fun hs => ?_⟩
  change (if P.session = .closed then .closed else .up) = Session.up
  rw [hs]
  rfl

/-- A port falls asleep from ENTERING_DORMANT alone (R170). -/
theorem PortState.StaysUp.fallAsleep (P : PortState) : P.StaysUp P.fallAsleep := by
  unfold PortState.fallAsleep
  split
  next hquiet =>
    obtain ⟨hentering, -⟩ := (PortState.quiet_iff P).1 hquiet
    exact ⟨id, fun hs => nomatch hs.symm.trans hentering⟩
  next => exact .refl P

theorem PortState.StaysUp.beginSession {q : Params} (hq : q.inRange) (seq tag : Byte) (nextSeq : Seq)
    (actions : Vector Action 16) (P : PortState) : P.StaysUp (P.beginSession seq tag q nextSeq actions) :=
  StaysUp.trans ⟨fun _ => hq, fun _ => rfl⟩ (.listen _)

theorem PortState.StaysUp.refuseOpen (seq tag : Byte) (result : Result) (P : PortState) :
    P.StaysUp (P.refuseOpen seq tag result) := ⟨fun _ => Params.inRange_fallback, fun _ => rfl⟩

/-! #### The transmitter and the timers -/

theorem PortState.StaysUp.ackDelayPasses (P : PortState) : P.StaysUp P.ackDelayPasses := by
  unfold PortState.ackDelayPasses
  cases P.ackOwed with
  | waiting left => exact .of_eq rfl rfl
  | clear => exact .refl P
  | due => exact .refl P

theorem PortState.StaysUp.addRound (P : PortState) : P.StaysUp P.addRound := .ite (.of_eq rfl rfl) (.of_eq rfl rfl)

theorem PortState.StaysUp.beginAck (P : PortState) : P.StaysUp P.beginAck :=
  (StaysUp.fallAsleep _).after rfl rfl

theorem PortState.StaysUp.beginData (w : Slot) (P : PortState) : P.StaysUp (P.beginData w) :=
  (StaysUp.fallAsleep _).after rfl rfl

theorem PortState.StaysUp.endData (q : Byte) (P : PortState) : P.StaysUp (P.endData q) := by
  have htimer : P.StaysUp (if P.window.any fun w => w.seq == q && w.role == .deviceReset && w.sent == .sending
      then P.startResetTimer else P) := .ite (.ite (.of_eq rfl rfl) (.refl P)) (.refl P)
  exact htimer.trans (.of_eq rfl rfl)

theorem PortState.StaysUp.endFrame (P : PortState) : P.StaysUp P.endFrame := by
  unfold PortState.endFrame
  cases P.tx with
  | none => exact .refl P
  | some frame => exact .ite ((StaysUp.endData ..).after rfl rfl) (.of_eq rfl rfl)

theorem PortState.StaysUp.seeMark (P : PortState) : P.StaysUp P.seeMark := .ite (.of_eq rfl rfl) (.refl P)

theorem PortState.StaysUp.hearGraceEnd (n : ActionNo) (P : PortState) : P.StaysUp (P.hearGraceEnd n) :=
  .ite (.of_eq rfl rfl) (.ite (.of_eq rfl rfl) (.refl P))

/-! ### What changes of the part keep -/

variable {s t : State}

/-- A change of the other blocks alone. -/
theorem State.ServiceInOrder.of_eq (h : s.ServiceInOrder) (hsources : t.sources = s.sources)
    (hactions : t.actions = s.actions) (hports : t.ports = s.ports) (hroutes : t.routes = s.routes) : t.ServiceInOrder := by
  have hup : t.up = s.up := by
    unfold State.up State.port
    rw [hports]
  refine ⟨fun i => ?_, fun n => ?_, fun p => ?_, fun r => ?_⟩
  · rw [show t.source i = s.source i by unfold State.source; rw [hsources]]
    exact h.sources i
  · rw [show t.action n = s.action n by unfold State.action; rw [hactions]]
    exact h.actions n
  · rw [show t.port p = s.port p by unfold State.port; rw [hports]]
    exact h.params p
  · rw [show t.route r = s.route r by unfold State.route; rw [hroutes], hup]
    exact h.routes r

theorem State.ServiceInOrder.updSource (h : s.ServiceInOrder) {i : SourceNo} {f : Source → Source}
    (hf : (f (s.source i)).cfg.holdoff ≤ 255) : (s.updSource i f).ServiceInOrder := by
  refine ⟨fun j => ?_, h.actions, h.params, h.routes⟩
  by_cases e : j = i
  · subst e
    rwa [State.source_updSource_same]
  · rw [State.source_updSource_ne _ _ e]
    exact h.sources j

theorem State.ServiceInOrder.updAction (h : s.ServiceInOrder) {n : ActionNo} {f : Action → Action}
    (hf : (f (s.action n)).cfg.inRange) : (s.updAction n f).ServiceInOrder := by
  refine ⟨h.sources, fun m => ?_, h.params, h.routes⟩
  by_cases e : m = n
  · subst e
    rwa [State.action_updAction_same]
  · rw [State.action_updAction_ne _ _ e]
    exact h.actions m

/-- A change of an action that is none of its configuration. -/
theorem State.ServiceInOrder.action (h : s.ServiceInOrder) {n : ActionNo} {f : Action → Action}
    (hf : (f (s.action n)).cfg = (s.action n).cfg) : (s.updAction n f).ServiceInOrder :=
  h.updAction (hf ▸ h.actions n)

theorem State.ServiceInOrder.updRoute (h : s.ServiceInOrder) {r : RouteNo} {f : Route → Route}
    (hf : (s.route r).InOrderFor s.up → (f (s.route r)).InOrderFor s.up) : (s.updRoute r f).ServiceInOrder := by
  refine ⟨h.sources, h.actions, h.params, fun q => ?_⟩
  rw [State.route_updRoute]
  split
  · exact hf (h.routes r)
  · exact h.routes q

/-- A change of a port that no batch depends on. -/
theorem State.ServiceInOrder.updPort (h : s.ServiceInOrder) {p : Port} {f : PortState → PortState}
    (hparams : (f (s.port p)).params.inRange)
    (hup : ∀ r b, (s.route r).batch = some b → (s.route r).owner = some p → (f (s.port p)).session = .up) :
    (s.updPort p f).ServiceInOrder := by
  refine ⟨h.sources, h.actions, fun q => ?_, fun r => ⟨(h.routes r).cfg, (h.routes r).rests, fun b hb => ?_⟩⟩
  · rw [State.port_updPort]
    split
    · exact hparams
    · exact h.params q
  · have hoffers := (h.routes r).offers b hb
    obtain ⟨q, howner, hq⟩ := hoffers.owner
    refine { hoffers with owner := ⟨q, howner, ?_⟩ }
    unfold State.up
    rw [State.port_updPort]
    split
    next e => exact hup r b hb (e ▸ howner)
    · exact hq

/-- A port that is UP stays UP. -/
theorem State.ServiceInOrder.port (h : s.ServiceInOrder) {p : Port} {f : PortState → PortState}
    (hf : (s.port p).StaysUp (f (s.port p))) : (s.updPort p f).ServiceInOrder := by
  refine h.updPort (hf.params (h.params p)) fun r b hb howner => hf.up ?_
  obtain ⟨q, hq, hup⟩ := ((h.routes r).offers b hb).owner
  cases howner.symm.trans hq
  exact hup

theorem State.ServiceInOrder.raise (h : s.ServiceInOrder) (i : SourceNo) (detail : Half) :
    (s.raise i detail).ServiceInOrder := by
  rw [State.raise_eq_reports]
  exact h.of_eq rfl rfl rfl rfl

theorem State.ServiceInOrder.closeAll (h : s.ServiceInOrder) (out : CloseOutcome) (time : Time) (xs : List Rec) :
    (s.closeAll out time xs).ServiceInOrder := by
  rw [closeAll_eq]
  exact h.of_eq rfl rfl rfl rfl

/-! ### Handing on -/

theorem State.ServiceInOrder.offer (h : s.ServiceInOrder) (o : Occurrence) (r : RouteNo) :
    (offer o r s).2.ServiceInOrder := by
  have hqueue := fun n => offeredPrefix_queueAfterOffer (n := n) o r s
  obtain ⟨queue, lost, store, history, held, e⟩ := offer_changes o r s
  rw [e] at hqueue ⊢
  have hroute : (s.updRoute r fun u => { u with queue := queue, lost := lost }).ServiceInOrder := by
    refine h.updRoute fun ht => ht.withQueue ht.cfg (fun n hn => ?_) lost
    have hkept : offeredPrefix n ((s.updRoute r fun u => { u with queue := queue, lost := lost }).route r).queue :=
      hqueue n hn
    rwa [State.route_updRoute_same] at hkept
  exact hroute.of_eq rfl rfl rfl rfl

theorem serviceInOrder_handOnKeeps : HandOnKeeps State.ServiceInOrder where
  held _ _ h := h.of_eq rfl rfl rfl rfl
  answer i _ _ h := h.updSource (h.sources i)
  offer o r _ h := h.offer o r
  fired _ _ _ h := h.action rfl
  grace _ _ h :=
    State.ServiceInOrder.port (State.ServiceInOrder.port (h.action rfl) (.of_eq rfl rfl)) (.of_eq rfl rfl)

theorem State.ServiceInOrder.handOnHeld (h : s.ServiceInOrder) : (handOnHeld s).ServiceInOrder :=
  serviceInOrder_handOnKeeps.handOnHeld s h

theorem State.ServiceInOrder.fire (h : s.ServiceInOrder) (n : ActionNo) (cause : FireCause) :
    (fire n cause s).ServiceInOrder :=
  serviceInOrder_handOnKeeps.fire n cause s h

theorem State.ServiceInOrder.acceptChange (h : s.ServiceInOrder) (i : LineNo) : (acceptChange i s).ServiceInOrder := by
  unfold Machine.acceptChange
  split
  · exact State.ServiceInOrder.handOnHeld
      (serviceInOrder_handOnKeeps.sourceSeesChange _ _ _ _ (h.of_eq rfl rfl rfl rfl))
  · exact h

theorem State.ServiceInOrder.settleLine (h : s.ServiceInOrder) (i : LineNo) : (settleLine i s).ServiceInOrder := by
  unfold Machine.settleLine
  split
  · exact State.ServiceInOrder.handOnHeld
      (serviceInOrder_handOnKeeps.sourceSeesSettle _ _ _ _ (h.of_eq rfl rfl rfl rfl))
  · exact h

theorem State.ServiceInOrder.holdoffExpires (h : s.ServiceInOrder) (i : SourceNo) : (holdoffExpires i s).ServiceInOrder := by
  unfold Machine.holdoffExpires
  cases (s.source i).state with
  | holdoff left => exact State.ServiceInOrder.handOnHeld (serviceInOrder_handOnKeeps.occur _ _ _ _ h)
  | off => exact h
  | watch => exact h
  | raised openRecord => exact h

/-! ### Actions -/

theorem State.ServiceInOrder.endGrace (h : s.ServiceInOrder) (n : ActionNo) (outcome : GraceOutcome)
    (endedBy : Option Port) : (endGrace n outcome endedBy s).ServiceInOrder :=
  State.ServiceInOrder.port (State.ServiceInOrder.port (h.action rfl) (.hearGraceEnd n _)) (.hearGraceEnd n _)

theorem State.ServiceInOrder.graceExpires (h : s.ServiceInOrder) (n : ActionNo) : (graceExpires n s).ServiceInOrder := by
  unfold Machine.graceExpires
  cases (s.action n).state with
  | grace left => exact ((h.endGrace n .fired none).fire n .graceExpiry).handOnHeld
  | idle => exact h
  | fired cause pulse => exact h

theorem State.ServiceInOrder.pulseExpires (h : s.ServiceInOrder) (n : ActionNo) : (pulseExpires n s).ServiceInOrder := by
  unfold Machine.pulseExpires
  split
  · exact h.action rfl
  all_goals exact h

theorem State.ServiceInOrder.setOutput (h : s.ServiceInOrder) (p : Port) (n : ActionNo) :
    (setOutput p n s).ServiceInOrder := by
  unfold Machine.setOutput
  cases (s.action n).state with
  | idle => exact h.fire n .request
  | grace left => exact (h.endGrace n .fired (some p)).fire n .request
  | fired cause pulse => exact h

/-! ### Sessions and resets -/

/-- The session of a port ends and its batches return, so that no batch is left to a port that is not UP (R105, R156). -/
theorem State.ServiceInOrder.returnBatches_closed (h : s.ServiceInOrder) (p : Port) (schedule : Schedule) :
    (returnBatches p (s.updPort p (PortState.closed schedule))).ServiceInOrder := by
  refine ⟨h.sources, h.actions, fun q => ?_, fun r => ?_⟩
  · change ((s.updPort p (PortState.closed schedule)).port q).params.inRange
    rw [State.port_updPort]
    split
    · exact Params.inRange_fallback
    · exact h.params q
  · rw [returnBatches_route]
    split
    · exact (h.routes r).returnBatch
    next hother =>
      refine (h.routes r).mono fun q howner hq => ?_
      change ((s.updPort p (PortState.closed schedule)).port q).session = .up
      rw [State.port_updPort_ne _ _ fun e => hother (howner.trans (congrArg some e))]
      exact hq

theorem Action.softReset_cfg (a : Action) : a.softReset.cfg = a.cfg := by
  unfold Action.softReset
  cases a.state with
  | idle => rfl
  | grace left => rfl
  | fired cause pulse => cases a.cfg.shape <;> rfl

theorem State.ServiceInOrder.softReset (h : s.ServiceInOrder) : (softReset s).ServiceInOrder := by
  refine ⟨fun i => ?_, fun n => ?_, fun p => ?_, fun r => ?_⟩
  · rw [softReset_source]
    exact h.sources i
  · rw [softReset_action, Action.softReset_cfg]
    exact h.actions n
  · rw [softReset_port]
    exact Params.inRange_fallback
  · rw [softReset_route]
    exact (h.routes r).emptied

theorem State.ServiceInOrder.resetIfPending (h : s.ServiceInOrder) (p : Port) : (resetIfPending p s).ServiceInOrder :=
  ite_keeps h.softReset h

theorem State.ServiceInOrder.endOrderly (h : s.ServiceInOrder) (schedule : Schedule) (p : Port) :
    (endOrderly schedule p s).ServiceInOrder := (h.returnBatches_closed p schedule).resetIfPending p

theorem State.ServiceInOrder.orderlyEnd (h : s.ServiceInOrder) (p : Port) : (orderlyEnd p s).ServiceInOrder :=
  h.endOrderly .due p

theorem State.ServiceInOrder.failOver (h : s.ServiceInOrder) (owner : Port) (r : RouteNo) :
    (failOver owner s r).ServiceInOrder :=
  State.ServiceInOrder.port (h.updRoute fun ht => ht.giveTo (some owner)) (.of_eq rfl rfl)

theorem State.ServiceInOrder.loseSession (h : s.ServiceInOrder) (p : Port) (cause : LossCause) (schedule : Schedule) :
    (loseSession p cause schedule s).ServiceInOrder := by
  have hmoved : ∀ (moved : List RouteNo) (u : State), u.ServiceInOrder →
      (moved.foldl (Machine.failOver (otherPort p)) u).ServiceInOrder := by
    intro moved
    induction moved with
    | nil => exact fun u hu => hu
    | cons r moved ih => exact fun u hu => ih _ (hu.failOver (otherPort p) r)
  rw [loseSession_eq]
  exact (hmoved (movedRoutes p s) _ (h.returnBatches_closed p schedule)).of_eq rfl rfl rfl rfl

theorem State.ServiceInOrder.sessionLoss (h : s.ServiceInOrder) (p : Port) (cause : LossCause) (schedule : Schedule) :
    (sessionLoss p cause schedule s).ServiceInOrder := (h.loseSession p cause schedule).handOnHeld.resetIfPending p

theorem State.ServiceInOrder.callRound (h : s.ServiceInOrder) (p : Port) : (callRound p s).ServiceInOrder :=
  ite_keeps (h.port (.addRound _)) (ite_keeps (h.orderlyEnd p) (h.sessionLoss p .retryLimit .due))

theorem State.ServiceInOrder.breakSession (h : s.ServiceInOrder) (p : Port) : (breakSession p s).ServiceInOrder := by
  unfold Machine.breakSession
  split
  · exact h.sessionLoss p .linkBreak .suspended
  · split
    next hclosed => exact h.port ⟨fun _ => Params.inRange_fallback, fun hup => nomatch hup.symm.trans hclosed⟩
    · exact h.endOrderly .suspended p

/-! ### Frames from the agent -/

theorem State.ServiceInOrder.reportAcked (h : s.ServiceInOrder) (p : Port) (w : Slot) :
    (reportAcked p s w).ServiceInOrder := by
  unfold Machine.reportAcked
  cases w.role with
  | plain => exact h
  | close => exact ite_keeps (h.orderlyEnd p) h
  | refusedOpen => exact ite_keeps (h.orderlyEnd p) h
  | deviceReset => exact h.resetIfPending p
  | notify r tag => exact h.updRoute fun ht => ht.offerAcked p tag w.seq

theorem State.ServiceInOrder.applyAck (h : s.ServiceInOrder) (p : Port) (a : Byte) : (applyAck p a s).ServiceInOrder := by
  have hacked : ∀ (acked : List Slot) (u : State), u.ServiceInOrder →
      (acked.foldl (Machine.reportAcked p) u).ServiceInOrder := by
    intro acked
    induction acked with
    | nil => exact fun u hu => hu
    | cons w acked ih => exact fun u hu => ih _ (hu.reportAcked p w)
  unfold Machine.applyAck
  split
  · exact h
  · exact (hacked _ _ (h.port (.of_eq rfl rfl))).port (.fallAsleep _)

theorem State.ServiceInOrder.dataFrame (h : s.ServiceInOrder) (p : Port) (seq info : Byte) (payload : List Byte) :
    (dataFrame p seq info payload s).ServiceInOrder := by
  have hsession : ∀ u : State, u.ServiceInOrder → (dataInSession p seq info payload u).ServiceInOrder := fun u hu =>
    ite_keeps (ite_keeps ((hu.port (.demand _)).applyAck p info) (hu.port (.acceptOpen ..)))
      ((hu.port (.judge ..)).applyAck p info)
  have hhunt := h.port (p := p) (.toHunt _)
  exact ite_keeps (ite_keeps (hhunt.port (.acceptOpen ..)) hhunt) (hsession _ (hhunt.port (.hearFrame _)))

theorem State.ServiceInOrder.ackFrame (h : s.ServiceInOrder) (p : Port) (seq info : Byte) :
    (ackFrame p seq info s).ServiceInOrder := by
  have hsession : ∀ u : State, u.ServiceInOrder → (ackInSession p seq info u).ServiceInOrder := fun u hu =>
    ite_keeps (((hu.applyAck p seq).port (.of_eq rfl rfl)).callRound p) (hu.applyAck p seq)
  have hhunt := h.port (p := p) (.toHunt _)
  exact ite_keeps hhunt (hsession _ (hhunt.port (.hearFrame _)))

end Sys2Proof.Machine

namespace Sys2Proof.Machine

variable {s t : State}

/-! ### The service cycle -/

theorem State.foldl_better_mem (s : State) (l : List RouteNo) {best : Option RouteNo} {r : RouteNo}
    (h : l.foldl s.better best = some r) : r ∈ l ∨ best = some r := by
  induction l generalizing best with
  | nil => exact .inr h
  | cons q l ih =>
    obtain hr | hr := ih h
    · exact .inl (List.mem_cons_of_mem _ hr)
    · unfold State.better at hr
      split at hr
      · cases hr
        exact .inl (List.mem_cons_self ..)
      · split at hr
        · cases hr
          exact .inl (List.mem_cons_self ..)
        · exact .inr hr

/-- The best of the candidates is one of them (R69). -/
theorem candidate_of_bestCandidate {p : Port} {r : RouteNo} (h : s.bestCandidate p = some r) : s.candidate p r = true := by
  obtain hr | hr := s.foldl_better_mem _ h
  · exact (List.mem_filter.1 hr).2
  · cases hr

/-- A batch or a re-offer is the scheduler's choice only of a port that is UP, and on a candidate (R69, R181). -/
theorem State.choice_offer {p : Port} {r : RouteNo} {c : Choice} (h : s.choice p = some c)
    (hc : c = .newBatch r ∨ c = .reoffer r) :
    s.up p ∧ s.candidate p r = true ∧ c = if s.reofferDue r then .reoffer r else .newBatch r := by
  unfold State.choice at h
  dsimp only at h
  split at h
  · split at h
    · cases h
      exact nomatch hc
    · split at h
      next hup =>
        split at h
        · cases h
          exact nomatch hc
        · cases h
          exact nomatch hc
        · obtain ⟨q, hq, rfl⟩ := Option.map_eq_some_iff.1 h
          have hqr : q = r := by
            split at hc <;> simpa using hc
          subst hqr
          exact ⟨hup, candidate_of_bestCandidate hq, rfl⟩
      · cases h
  · cases h

/-- A new batch is the choice on a READY route of a port that is UP (R57, R69). -/
theorem State.choice_newBatch {p : Port} {r : RouteNo} (h : s.choice p = some (.newBatch r)) :
    s.up p ∧ (s.route r).owner = some p ∧ (s.route r).state = .ready := by
  obtain ⟨hup, hcandidate, hchoice⟩ := State.choice_offer h (.inl rfl)
  have hdue : s.reofferDue r = false := by
    cases hdue : s.reofferDue r with
    | false => rfl
    | true =>
      rw [hdue] at hchoice
      cases hchoice
  simp only [State.candidate, hdue, Bool.or_false, Bool.and_eq_true, beq_iff_eq, State.eligible] at hcandidate
  exact ⟨hup, hcandidate.1, hcandidate.2.1.1.1⟩

/-- A re-offer is the choice where the batch waits for one (R69, R78). -/
theorem State.choice_reoffer {p : Port} {r : RouteNo} (h : s.choice p = some (.reoffer r)) :
    ∃ b, (s.route r).batch = some b ∧ b.phase = .reofferDue := by
  obtain ⟨-, -, hchoice⟩ := State.choice_offer h (.inr rfl)
  have hdue : s.reofferDue r = true := by
    by_contra hdue
    rw [if_neg hdue] at hchoice
    cases hchoice
  unfold State.reofferDue at hdue
  cases hb : (s.route r).batch with
  | none =>
    rw [hb] at hdue
    cases hdue
  | some b =>
    rw [hb] at hdue
    exact ⟨b, rfl, beq_iff_eq.1 hdue⟩

theorem State.ServiceInOrder.placeNotify (h : s.ServiceInOrder) (p : Port) (r : RouteNo) (again : Bool) :
    (placeNotify p r again s).ServiceInOrder := by
  unfold Machine.placeNotify
  split
  · exact h
  · exact h.port (.of_eq rfl rfl)

theorem State.ServiceInOrder.formBatch (h : s.ServiceInOrder) {p : Port} {r : RouteNo}
    (hchoice : s.choice p = some (.newBatch r)) : (formBatch p r s).ServiceInOrder := by
  obtain ⟨hup, howner, hready⟩ := State.choice_newBatch hchoice
  obtain ⟨hpayload, -⟩ := h.params p
  refine State.ServiceInOrder.placeNotify (h.updRoute fun ht => ?_) p r false
  obtain ⟨hn, hle⟩ := batchSize_bounds ht.cfg (Route.state_ready hready).2 hpayload
  exact ht.formBatch hready howner hup hn hle _

theorem State.ServiceInOrder.reofferBatch (h : s.ServiceInOrder) {p : Port} {r : RouteNo}
    (hchoice : s.choice p = some (.reoffer r)) : (reofferBatch p r s).ServiceInOrder := by
  obtain ⟨b, hb, hphase⟩ := State.choice_reoffer hchoice
  refine State.ServiceInOrder.placeNotify (h.updRoute fun ht => ?_) p r true
  have hoffers := ht.offers b hb
  have htimer := hoffers.timer (by rw [hphase]; decide)
  rw [hb]
  exact ht.withPhase hb { b with phase := .awaitingAck, frame := (s.port p).sendSeq } rfl rfl hoffers.attempts
    fun _ => htimer

theorem State.ServiceInOrder.serviceTimerExpires (h : s.ServiceInOrder) (r : RouteNo) :
    (serviceTimerExpires r s).ServiceInOrder := by
  unfold Machine.serviceTimerExpires
  split
  next b _ hb _ =>
    split
    next hlimit =>
      exact h.updRoute fun ht =>
        ht.withPhase hb { b with attempts := b.attempts + 1, phase := .reofferDue } rfl rfl hlimit fun _ => rfl
    · exact ((h.updRoute fun ht => ht.stall).raise srcServiceTimeout _).handOnHeld
  · exact h

/-! ### Requests -/

theorem State.ServiceInOrder.answerWith (h : s.ServiceInOrder) {p : Port} {code tag : Byte} {result : Result}
    {fields : List Byte} : (answerWith p code tag result fields s).ServiceInOrder := h.port (.of_eq rfl rfl)

theorem State.ServiceInOrder.answerOk (h : s.ServiceInOrder) {p : Port} {code tag : Byte} {fields : List Byte} :
    (answerOk p code tag fields s).ServiceInOrder := h.answerWith

theorem State.ServiceInOrder.refuse (h : s.ServiceInOrder) {p : Port} {code tag : Byte} {result : Result} :
    (refuse p code tag result s).ServiceInOrder := h.answerWith

theorem State.ServiceInOrder.configChanged (h : s.ServiceInOrder) {p : Port} {code : Byte} :
    (Machine.handOnHeld (configChanged p code s)).ServiceInOrder := (h.raise srcConfigChanged _).handOnHeld

theorem State.ServiceInOrder.takeRequest (h : s.ServiceInOrder) {p : Port} {code : Byte} {rest : List Byte}
    (ht : takeRequest p code rest s = some t) : t.ServiceInOrder := by
  unfold Machine.takeRequest at ht
  split at ht
  · split at ht
    · cases ht
      exact h.port (.of_eq rfl rfl)
    · cases ht
  · split at ht
    · cases ht
      exact h
    · cases ht

theorem State.ServiceInOrder.checked (h : s.ServiceInOrder) {α : Type} {p : Port} {code tag : Byte} {value : Except Result α}
    {act : α → State → State} (hact : ∀ v, value = .ok v → (act v s).ServiceInOrder) :
    (checked p code tag value act s).ServiceInOrder := by
  cases value with
  | error r => exact h.refuse
  | ok v => exact hact v rfl

/-! #### OPEN, CLOSE, DORMANT, DEVICE-RESET, SET-TIME -/

/-- OPEN lets through parameters in range alone (R162). -/
theorem readOpen_inRange {fields : List Byte} {q : Params} (h : readOpen fields = .ok q) : q.inRange := by
  unfold readOpen at h
  split at h
  next m0 m1 window silence retransmit =>
    unfold readParams at h
    dsimp only at h
    split at h
    · cases h
    next hpayload =>
      obtain ⟨_, -, h⟩ := Result.bind_eq_ok h
      obtain ⟨_, hretransmit, h⟩ := Result.bind_eq_ok h
      cases h
      have hsilence := silence.isLt
      have hwithin := readRange_within hretransmit
      unfold Params.inRange
      dsimp only
      omega
  · cases h

theorem State.ServiceInOrder.openTaken (h : s.ServiceInOrder) (p : Port) (seq : Byte) (rest : List Byte) :
    (openTaken p seq rest s).ServiceInOrder := by
  have hend : (endBeforeOpen p s).ServiceInOrder := ite_keeps h (h.orderlyEnd p)
  cases rest with
  | nil => exact hend.port (.refuseOpen ..)
  | cons tag fields =>
    change (openWith p seq tag fields (endBeforeOpen p s)).ServiceInOrder
    unfold openWith
    cases hread : readOpen fields with
    | ok q => exact hend.port (.beginSession (readOpen_inRange hread) ..)
    | error r => exact hend.port (.refuseOpen ..)

theorem State.ServiceInOrder.takeOpen (h : s.ServiceInOrder) {p : Port} {seq : Byte} {rest : List Byte}
    (ht : takeOpen p seq rest s = some t) : t.ServiceInOrder := by
  unfold Machine.takeOpen at ht
  split at ht
  · split at ht
    · cases ht
      exact h.port (.of_eq rfl rfl)
    · cases ht
  · split at ht
    · cases ht
    · cases ht
      exact h

theorem State.ServiceInOrder.closeWith (h : s.ServiceInOrder) (p : Port) (tag : Byte) (fields : List Byte) :
    (closeWith p tag fields s).ServiceInOrder := by
  cases fields with
  | nil => exact h.port (.of_eq rfl rfl)
  | cons field fields => exact h.refuse

/-- A port starts to fall dormant only while none of its routes has a batch (R169). -/
theorem State.ServiceInOrder.dormantWith (h : s.ServiceInOrder) (p : Port) (tag : Byte) (fields : List Byte) :
    (dormantWith p tag fields s).ServiceInOrder := by
  cases fields with
  | nil =>
    by_cases hbusy : (s.servesFor p || (s.port p).closing) = true
    · rw [dormantWith_of_busy hbusy]
      exact h.refuse
    · rw [dormantWith_of_free hbusy]
      refine h.updPort (h.params p) fun r b hb howner => absurd ?_ hbusy
      rw [(State.servesFor_iff s p).2 ⟨r, howner, (h.routes r).state_of_batch hb⟩]
      rfl
  | cons field fields => exact h.refuse

theorem State.ServiceInOrder.deviceResetWith (h : s.ServiceInOrder) (p : Port) (tag : Byte) (fields : List Byte) :
    (deviceResetWith p tag fields s).ServiceInOrder := by
  cases fields with
  | nil => exact h.port (.of_eq rfl rfl)
  | cons field fields => exact h.refuse

theorem State.ServiceInOrder.setTimeWith (h : s.ServiceInOrder) (p : Port) (tag : Byte) (fields : List Byte) :
    (setTimeWith p tag fields s).ServiceInOrder := by
  unfold Machine.setTimeWith
  split
  · have hanswer := h.answerOk (p := p) (code := setTimeCode) (tag := tag) (fields := leBytes 6 s.timebase.toNat)
    refine State.ServiceInOrder.configChanged ?_
    exact hanswer.of_eq rfl rfl rfl rfl
  · exact h.refuse

/-! #### SOURCE-SET -/

/-- SOURCE-SET lets through a holdoff of one byte (R4, R18). -/
theorem readSourceSet_holdoff_le {b0 b1 b2 b3 b4 b5 : Byte} {v : SourceNo × SourceConfig}
    (h : readSourceSet b0 b1 b2 b3 b4 b5 = .ok v) : v.2.holdoff ≤ 255 := by
  obtain ⟨_, -, h⟩ := Result.bind_eq_ok h
  split at h
  · obtain ⟨_, -, h⟩ := Result.bind_eq_ok h
    obtain ⟨_, -, h⟩ := Result.bind_eq_ok h
    obtain ⟨_, -, h⟩ := Result.bind_eq_ok h
    obtain ⟨_, -, h⟩ := Result.bind_eq_ok h
    cases h
    exact Nat.le_of_lt_succ b5.isLt
  · obtain ⟨_, -, h⟩ := Result.bind_eq_ok h
    obtain ⟨_, -, h⟩ := Result.bind_eq_ok h
    obtain ⟨_, -, h⟩ := Result.bind_eq_ok h
    obtain ⟨_, -, h⟩ := Result.bind_eq_ok h
    obtain ⟨_, -, h⟩ := Result.bind_eq_ok h
    cases h
    exact Nat.zero_le _

theorem State.ServiceInOrder.configureSource (h : s.ServiceInOrder) (i : SourceNo) {cfg : SourceConfig}
    (hcfg : cfg.holdoff ≤ 255) : (configureSource i cfg s).ServiceInOrder := by
  have hset : (s.updSource i fun _ => Source.configured cfg).ServiceInOrder := h.updSource hcfg
  unfold Machine.configureSource restartLine
  split
  · exact hset.of_eq rfl rfl rfl rfl
  · exact hset

theorem State.ServiceInOrder.sourceSetWith (h : s.ServiceInOrder) (p : Port) (tag : Byte) (fields : List Byte) :
    (sourceSetWith p tag fields s).ServiceInOrder := by
  unfold Machine.sourceSetWith
  split
  · refine h.checked fun v hv => ?_
    unfold sourceSetChecked
    split
    · exact (h.configureSource v.1 (readSourceSet_holdoff_le hv)).answerOk.configChanged
    · exact h.refuse
  · exact h.refuse

/-! #### Requests on routes -/

/-- ROUTE-SET lets through settings in range alone (R43, R59). -/
theorem readRouteSet_inRange {fields : List Byte} {v : RouteNo × RouteConfig} (h : readRouteSet fields = .ok v) :
    v.2.inRange := by
  unfold readRouteSet at h
  split at h
  next route priority depth policy batchMax timeout retries wake failover takeover masked =>
    obtain ⟨_, -, h⟩ := Result.bind_eq_ok h
    obtain ⟨_, hc, h⟩ := Result.bind_eq_ok h
    cases h
    obtain ⟨⟨epriority, ebatch, etimeout, eretries⟩, hpriority, -, -, hbatch, hretries, -⟩ := readRouteConfig_eq_ok hc
    have htimeout := timeout.isLt
    unfold RouteConfig.inRange
    dsimp only
    omega
  · cases h

theorem State.ServiceInOrder.configureRoute (h : s.ServiceInOrder) {r : RouteNo} {cfg : RouteConfig} (hcfg : cfg.inRange)
    (hdepth : offeredCount (s.route r).queue ≤ cfg.depth) : (configureRoute r cfg s).ServiceInOrder := by
  refine State.ServiceInOrder.closeAll (h.updRoute fun ht => ?_) .dropped _ _
  exact ht.withQueue hcfg (fun n hn => offeredPrefix_cutToDepth hn hdepth) _

theorem State.ServiceInOrder.routeSetWith (h : s.ServiceInOrder) (p : Port) (tag : Byte) (fields : List Byte) :
    (routeSetWith p tag fields s).ServiceInOrder := by
  refine h.checked fun v hv => ?_
  unfold routeSetChecked
  split
  · exact h.refuse
  · split
    · exact h.refuse
    next hdepth =>
      have hset := h.configureRoute (readRouteSet_inRange hv) (Nat.le_of_not_lt hdepth)
      exact (serviceInOrder_handOnKeeps.handSome _ _ hset.answerOk).configChanged

theorem State.ServiceInOrder.claimChanges (h : s.ServiceInOrder) (p : Port) (r : RouteNo) :
    (claimChanges p r s).ServiceInOrder := by
  have hgiven : (s.updRoute r (Route.giveTo (some p))).ServiceInOrder := h.updRoute fun ht => ht.giveTo (some p)
  refine State.ServiceInOrder.port ?_ (.of_eq rfl rfl)
  unfold tellOldOwner
  cases (s.route r).owner with
  | none => exact hgiven
  | some q => exact hgiven.port (.of_eq rfl rfl)

theorem State.ServiceInOrder.claimRouteWith (h : s.ServiceInOrder) (p : Port) (tag : Byte) (fields : List Byte) :
    (claimRouteWith p tag fields s).ServiceInOrder := by
  unfold Machine.claimRouteWith
  split
  · refine h.checked fun v _ => ?_
    unfold claimRouteChecked
    cases s.claim p v.1 v.2 with
    | denied => exact h.answerWith
    | keep => exact h.answerOk.configChanged
    | change => exact (h.claimChanges p v.1).answerOk.configChanged
  · exact h.refuse

theorem State.ServiceInOrder.releaseRoute (h : s.ServiceInOrder) (p : Port) (r : RouteNo) :
    (releaseRoute p r s).ServiceInOrder := State.ServiceInOrder.port (h.updRoute fun ht => ht.giveTo none) (.of_eq rfl rfl)

theorem State.ServiceInOrder.releaseRouteWith (h : s.ServiceInOrder) (p : Port) (tag : Byte) (fields : List Byte) :
    (releaseRouteWith p tag fields s).ServiceInOrder := by
  unfold Machine.releaseRouteWith
  split
  · exact h.checked fun r _ => ite_keeps (h.releaseRoute p r).answerOk.configChanged h.refuse
  · exact h.refuse

theorem State.ServiceInOrder.resumeRouteWith (h : s.ServiceInOrder) (p : Port) (tag : Byte) (fields : List Byte) :
    (resumeRouteWith p tag fields s).ServiceInOrder := by
  unfold Machine.resumeRouteWith
  split
  · refine h.checked fun r _ => ite_keeps (State.ServiceInOrder.answerOk ?_) h.refuse
    exact h.updRoute fun ht => ht.resumed
  · exact h.refuse

theorem State.ServiceInOrder.completeBatch (h : s.ServiceInOrder) (r : RouteNo) (k : Nat) (b : Batch) :
    (completeBatch r k b s).ServiceInOrder :=
  State.ServiceInOrder.closeAll (h.updRoute fun ht => ht.serviced k b) .serviced _ _

theorem State.ServiceInOrder.serviceDoneWith (h : s.ServiceInOrder) (p : Port) (tag : Byte) (fields : List Byte) :
    (serviceDoneWith p tag fields s).ServiceInOrder := by
  unfold Machine.serviceDoneWith
  split
  · refine h.checked fun v _ => ite_keeps ?_ h.refuse
    cases (s.route v.1).batchOf v.2.1 with
    | none => exact h.refuse
    | some b => exact ite_keeps h.refuse (h.completeBatch v.1 v.2.2 b).answerOk.handOnHeld
  · exact h.refuse

/-! #### Requests on actions -/

/-- ACTION-SET lets through a grace of 1 to 255 alone (R113, R129). -/
theorem readActionSet_inRange {fields : List Byte} {v : ActionNo × ActionConfig} (h : readActionSet fields = .ok v) :
    v.2.inRange := by
  unfold readActionSet at h
  split at h
  · obtain ⟨_, -, h⟩ := Result.bind_eq_ok h
    obtain ⟨_, hc, h⟩ := Result.bind_eq_ok h
    cases h
    obtain ⟨_, -, hc⟩ := Result.bind_eq_ok hc
    obtain ⟨_, -, hc⟩ := Result.bind_eq_ok hc
    obtain ⟨_, hgrace, hc⟩ := Result.bind_eq_ok hc
    obtain ⟨_, -, hc⟩ := Result.bind_eq_ok hc
    obtain ⟨_, -, hc⟩ := Result.bind_eq_ok hc
    obtain ⟨_, -, hc⟩ := Result.bind_eq_ok hc
    obtain ⟨_, -, hc⟩ := Result.bind_eq_ok hc
    cases hc
    exact readRange_within hgrace
  · cases h

theorem State.ServiceInOrder.actionSetWith (h : s.ServiceInOrder) (p : Port) (tag : Byte) (fields : List Byte) :
    (actionSetWith p tag fields s).ServiceInOrder := by
  refine h.checked fun v hv => ite_keeps (State.ServiceInOrder.configChanged (State.ServiceInOrder.answerOk ?_)) h.refuse
  exact h.updAction (readActionSet_inRange hv)

theorem State.ServiceInOrder.cancelActionWith (h : s.ServiceInOrder) (p : Port) (tag : Byte) (fields : List Byte) :
    (cancelActionWith p tag fields s).ServiceInOrder := by
  unfold Machine.cancelActionWith
  split
  · refine h.checked fun n _ => ?_
    unfold cancelActionChecked
    cases (s.action n).state with
    | grace left => exact State.ServiceInOrder.answerOk ((h.endGrace n .cancelled (some p)).action rfl)
    | fired cause pulse => exact h.answerWith
    | idle => exact h.answerWith
  · exact h.refuse

theorem State.ServiceInOrder.setOutputWith (h : s.ServiceInOrder) (p : Port) (tag : Byte) (fields : List Byte) :
    (setOutputWith p tag fields s).ServiceInOrder := by
  unfold Machine.setOutputWith
  split
  · exact h.checked fun n _ => (h.setOutput p n).answerOk.handOnHeld
  · exact h.refuse

theorem State.ServiceInOrder.clearOutputWith (h : s.ServiceInOrder) (p : Port) (tag : Byte) (fields : List Byte) :
    (clearOutputWith p tag fields s).ServiceInOrder := by
  unfold Machine.clearOutputWith
  split
  · refine h.checked fun n _ => ?_
    unfold clearOutputChecked
    cases (s.action n).state with
    | fired cause pulse => exact State.ServiceInOrder.answerOk (h.action rfl)
    | idle => exact h.refuse
    | grace left => exact h.refuse
  · exact h.refuse

/-! ### Every command and every step -/

theorem State.ServiceInOrder.of_request {p : Port} {code : Byte} {rest : List Byte} {act : Byte → List Byte → State → State}
    (h : taken s (request p code rest act) = .next t) (hs : s.ServiceInOrder)
    (hact : ∀ (u : State), u.ServiceInOrder → ∀ tag fields, (act tag fields u).ServiceInOrder) : t.ServiceInOrder := by
  refine keeps_of_taken h ?_ hs
  unfold request
  cases e : Machine.takeRequest p code rest s with
  | none => exact hs
  | some u =>
    have hu := hs.takeRequest e
    cases rest with
    | nil => exact hu.refuse
    | cons tag fields => exact hact u hu tag fields

theorem released_serviceInOrder (pending : List Instr) (arrivals : Nat) (cause : HardCause) (rate1 rate0 : Bool) :
    (State.released pending arrivals cause rate1 rate0).ServiceInOrder := by
  obtain ⟨hsources, hroutes, hactions, -⟩ := reset_settingsInRange
  refine ⟨hsources, hactions, fun p => ?_, fun r => ?_⟩
  · cases p <;> exact Params.inRange_fallback
  · have hcfg := hroutes r
    rw [reset_route] at hcfg
    rw [released_route]
    exact .of_rests hcfg rfl ⟨(offeredPrefix_zero_iff []).2 (List.forall_mem_nil _), rfl⟩

theorem Action.tick_cfg (a : Action) : a.tick.cfg = a.cfg := by
  unfold Action.tick
  cases a.state <;> rfl

theorem Source.tick_cfg (x : Source) : x.tick.cfg = x.cfg := by
  unfold Source.tick
  cases x.state <;> rfl

theorem State.ServiceInOrder.tick (h : s.ServiceInOrder) : s.tick.ServiceInOrder := by
  refine ⟨fun i => ?_, fun n => ?_, fun p => ?_, fun r => ?_⟩
  · rw [tick_source, Source.tick_cfg]
    exact h.sources i
  · rw [tick_action, Action.tick_cfg]
    exact h.actions n
  · rw [tick_port]
    exact h.params p
  · rw [tick_route]
    refine (h.routes r).tick.mono fun p _ hp => ?_
    unfold State.up
    rw [tick_port]
    exact hp

/-- Every command keeps batches, queues and sessions agreeing, and the settings in range. -/
theorem State.ServiceInOrder.exec {c : Instr} (h : exec c s = .next t) (hs : s.ServiceInOrder) : t.ServiceInOrder := by
  cases c with
  | hardReset cause =>
    cases h
    exact (released_serviceInOrder s.pending s.arrivals _ false false).of_eq rfl rfl rfl rfl
  | resetRelease rate1 rate0 =>
    cases h
    split
    · exact hs
    · exact released_serviceInOrder ..
  | sampleInstant raw => exact keeps_of_taken h (ite_keeps (hs.of_eq rfl rfl rfl rfl) hs) hs
  | acceptedLevelChange i => exact keeps_of_taken h (ite_keeps (hs.acceptChange i) hs) hs
  | settleReport i => exact keeps_of_taken h (ite_keeps (hs.settleLine i) hs) hs
  | holdoffExpiry i => exact keeps_of_taken h (hs.holdoffExpires _) hs
  | serviceTimerExpiry r => exact keeps_of_taken h (hs.serviceTimerExpires r) hs
  | formBatch p =>
    change execFormBatch p s = .next t at h
    refine keeps_of_taken h ?_ hs
    split
    next hchoice => exact hs.formBatch hchoice
    · exact hs
  | reoffer p =>
    change execReoffer p s = .next t at h
    refine keeps_of_taken h ?_ hs
    split
    next hchoice => exact hs.reofferBatch hchoice
    · exact hs
  | placeReply p =>
    change execPlaceReply p s = .next t at h
    refine keeps_of_taken h ?_ hs
    split
    · exact hs.port ((PortState.StaysUp.fallAsleep _).after rfl rfl)
    · exact hs
  | routeLost p | routeGained p | actionPending p | actionEnded p =>
    dsimp only [Machine.exec] at h
    refine keeps_of_taken h ?_ hs
    split
    · exact hs.port (.of_eq rfl rfl)
    · exact hs
  | transmitDataFrame p =>
    change execTransmitDataFrame p s = .next t at h
    refine keeps_of_taken h ?_ hs
    split
    · exact hs.port (.beginData ..)
    · exact hs
  | graceExpiry n => exact keeps_of_taken h (hs.graceExpires n) hs
  | pulseExpiry n => exact keeps_of_taken h (hs.pulseExpires n) hs
  | syncByte p => exact keeps_of_received h (hs.port (.takeSync _)) hs
  | frameHeaderReceived p bytes => exact keeps_of_received h (hs.port (.takeHeader ..)) hs
  | payloadBad p ftype bytes => exact keeps_of_received h (hs.port (.takeBadPayload ..)) hs
  | skipComplete p => exact keeps_of_received h (hs.port (.skipped _)) hs
  | interByteGap p | framingError p => exact keeps_of_taken h (hs.port (.abandon _)) hs
  | ackDelayExpiry p => exact keeps_of_taken h (hs.port (.ackDelayPasses _)) hs
  | frameTransmitEnd p => exact keeps_of_taken h (hs.port (.endFrame _)) hs
  | breakLineMark p => exact keeps_of_taken h (hs.port (.seeMark _)) hs
  | dataFrameReceived p seq info payload =>
    exact keeps_of_received h (ite_keeps (hs.dataFrame p seq info payload) hs) hs
  | ackFrameReceived p seq info payload => exact keeps_of_received h (ite_keeps (hs.ackFrame p seq info) hs) hs
  | announceFrameReceived p seq info payload =>
    exact keeps_of_received h (ite_keeps (hs.port (.hearAnnounce _)) hs) hs
  | transmitAckFrame p => exact keeps_of_taken h (ite_keeps (hs.port (.beginAck _)) hs) hs
  | retransmitTimeout p =>
    exact keeps_of_taken h (ite_keeps (State.ServiceInOrder.callRound (hs.port (.of_eq rfl rfl)) p) hs) hs
  | linkBreak p =>
    change execLinkBreak p s = .next t at h
    exact keeps_of_taken h (ite_keeps hs (State.ServiceInOrder.breakSession (hs.port (.of_eq rfl rfl)) p)) hs
  | announce p => exact keeps_of_taken h (ite_keeps (hs.port (.of_eq rfl rfl)) hs) hs
  | silenceExpiry p => exact keeps_of_taken h (ite_keeps (hs.sessionLoss p .silence .due) hs) hs
  | deviceResetTimeout p => exact keeps_of_taken h (ite_keeps hs.softReset hs) hs
  | openSession p seq rest =>
    change execOpenSession p seq rest s = .next t at h
    refine keeps_of_taken h ?_ hs
    split
    · exact hs
    next u hu => exact (hs.takeOpen hu).openTaken p seq rest
  | close p rest => exact of_request h hs fun _ hu => hu.closeWith p
  | dormant p rest => exact of_request h hs fun _ hu => hu.dormantWith p
  | deviceReset p rest => exact of_request h hs fun _ hu => hu.deviceResetWith p
  | setTime p rest => exact of_request h hs fun _ hu => hu.setTimeWith p
  | sourceSet p rest => exact of_request h hs fun _ hu => hu.sourceSetWith p
  | routeSet p rest => exact of_request h hs fun _ hu => hu.routeSetWith p
  | claimRoute p rest => exact of_request h hs fun _ hu => hu.claimRouteWith p
  | releaseRoute p rest => exact of_request h hs fun _ hu => hu.releaseRouteWith p
  | resumeRoute p rest => exact of_request h hs fun _ hu => hu.resumeRouteWith p
  | serviceDone p rest => exact of_request h hs fun _ hu => hu.serviceDoneWith p
  | actionSet p rest => exact of_request h hs fun _ hu => hu.actionSetWith p
  | cancelAction p rest => exact of_request h hs fun _ hu => hu.cancelActionWith p
  | setOutput p rest => exact of_request h hs fun _ hu => hu.setOutputWith p
  | clearOutput p rest => exact of_request h hs fun _ hu => hu.clearOutputWith p
  | ping p rest | status p rest | getTime p rest | lineRead p rest =>
    refine of_request h hs fun _ hu _ fields => ?_
    cases fields with
    | nil => exact hu.answerOk
    | cons field fields => exact hu.refuse
  | sourceGet p rest | routeGet p rest | actionGet p rest | historyRead p rest =>
    refine of_request h hs fun _ hu _ fields => ?_
    dsimp only [sourceGetWith, routeGetWith, actionGetWith, historyReadWith]
    split
    · exact hu.checked fun _ _ => hu.answerOk
    · exact hu.refuse
  | badCode p code rest =>
    refine keeps_of_taken h (ite_keeps hs ?_) hs
    cases e : Machine.takeRequest p code rest s with
    | none => exact hs
    | some u => exact (hs.takeRequest e).port (.of_eq rfl rfl)

/-- And so does every step: a command, or one microsecond. -/
theorem State.ServiceInOrder.step (h : step s = .next t) (hs : s.ServiceInOrder) : t.ServiceInOrder := by
  unfold Machine.step at h
  split at h
  · cases h
    exact ite_keeps hs hs.handOnHeld.tick
  · exact State.ServiceInOrder.exec h (hs.of_eq rfl rfl rfl rfl)

end Sys2Proof.Machine

namespace Sys2Proof.Machine

/-! ### O59: batches, queues and settings -/

/-- Settles O59: only UP ports have batches out, since a session ends with its batches returned, and every setting has passed
its range check. -/
theorem stepKeepsBatchesAgreeing : Obligations.StepKeepsBatchesAgreeing :=
  fun s t h hs => (State.serviceInOrder_iff t).1 (State.ServiceInOrder.step h ((State.serviceInOrder_iff s).2 hs))

end Sys2Proof.Machine

namespace Sys2Proof.Machine

/-! ## The service cycle -/

/-! ### O20: the service timer -/

/-- A stall, with the records' return written out (R79, R92). -/
theorem Route.stall_eq (t : Route) :
    t.stall =
      { t with
        queue := t.queue.map fun x => if x.state = .offered then { x with state := .pending, redelivered := true } else x
        batch := none, timer := none, stalled := true } := by
  unfold Route.stall
  rw [Route.returnBatch_eq]

theorem exec_serviceTimerExpiry {s : State} (h : s.running) (r : RouteNo) :
    exec (.serviceTimerExpiry r) s = .next (serviceTimerExpires r s) := taken_of_running h _

theorem serviceTimerExpires_of_attemptsLeft {r : RouteNo} {b : Batch} {left : Nat} {s : State}
    (hb : (s.route r).batch = some b) (ht : (s.route r).timer = some left) (h : b.attempts < b.retriesLimit) :
    serviceTimerExpires r s = s.updRoute r fun t =>
      { t with batch := some { b with attempts := b.attempts + 1, phase := .reofferDue }, timer := none } := by
  unfold serviceTimerExpires
  rw [hb, ht]
  exact if_pos h

theorem serviceTimerExpires_of_noAttemptLeft {r : RouteNo} {b : Batch} {left : Nat} {s : State}
    (hb : (s.route r).batch = some b) (ht : (s.route r).timer = some left) (h : b.retriesLimit ≤ b.attempts) :
    serviceTimerExpires r s =
      handOnHeld ((s.updRoute r Route.stall).raise srcServiceTimeout (detailOf r.val 0)) := by
  unfold serviceTimerExpires
  rw [hb, ht]
  exact if_neg (Nat.not_lt.2 h)

/-- Settles O20, by whether the batch has an attempt left. -/
theorem serviceTimerReoffersOrStalls : Obligations.ServiceTimerReoffersOrStalls := by
  intro r b left s hrun hb ht
  refine ⟨fun h => ?_, fun h => ?_⟩
  · rw [exec_serviceTimerExpiry hrun, serviceTimerExpires_of_attemptsLeft hb ht h]
  · rw [exec_serviceTimerExpiry hrun, serviceTimerExpires_of_noAttemptLeft hb ht h, funext Route.stall_eq]
    rfl

end Sys2Proof.Machine

namespace Sys2Proof.Machine

/-! ### O22: FORM_BATCH and REOFFER -/

theorem notifyFlags_first (entries : List Rec) :
    notifyFlags false entries = if entries.any Rec.redelivered then 0x02 else 0x00 := by
  unfold notifyFlags
  cases entries.any Rec.redelivered <;> rfl

theorem notifyFlags_again (entries : List Rec) :
    notifyFlags true entries = if entries.any Rec.redelivered then 0x03 else 0x01 := by
  unfold notifyFlags
  cases entries.any Rec.redelivered <;> rfl

theorem exec_formBatch {p : Port} {r : RouteNo} {s : State} (h : s.running) (hc : s.choice p = some (.newBatch r)) :
    exec (.formBatch p) s = .next (formBatch p r s) := by
  change execFormBatch p s = _
  unfold execFormBatch
  rw [taken_of_running h, hc]

theorem exec_reoffer {p : Port} {r : RouteNo} {s : State} (h : s.running) (hc : s.choice p = some (.reoffer r)) :
    exec (.reoffer p) s = .next (reofferBatch p r s) := by
  change execReoffer p s = _
  unfold execReoffer
  rw [taken_of_running h, hc]

theorem placeNotify_of_batch {p : Port} {r : RouteNo} {b : Batch} {s : State} (h : (s.route r).batch = some b)
    (again : Bool) :
    placeNotify p r again s =
      s.updPort p (PortState.place (notifyMessage r b again ((s.route r).queue.take b.n)) (.notify r b.tag)) := by
  unfold placeNotify
  rw [h]

theorem batchSize_le_length (maxPayload : Nat) (t : Route) : batchSize maxPayload t ≤ t.queue.length := by
  unfold batchSize
  omega

/-- The records of a new batch are the first of the queue, OFFERED (R72). -/
theorem Route.take_formBatch_queue {n : Nat} {t : Route} (h : n ≤ t.queue.length) (frame : Byte) :
    (t.formBatch n frame).queue.take n = (t.queue.take n).map Rec.offer :=
  List.take_left' (by rw [List.length_map, List.length_take_of_le h])

/-- A new batch and the NOTIFY that carries it (R72, R74). -/
theorem formBatch_eq (p : Port) (r : RouteNo) (s : State) :
    let t := s.route r
    let n := batchSize (s.port p).params.maxPayload t
    let b : Batch := { tag := nextTag t.tagCounter, n := n, snapshot := t.lost, retriesLimit := t.cfg.retries,
                       attempts := 0, phase := .awaitingAck, frame := (s.port p).sendSeq }
    formBatch p r s =
      (s.updRoute r fun t => t.formBatch n (s.port p).sendSeq).updPort p
        (PortState.place (notifyMessage r b false ((t.queue.take n).map Rec.offer)) (.notify r b.tag)) := by
  intro t n b
  have hroute := State.route_updRoute_same r (fun t => t.formBatch (batchSize (s.port p).params.maxPayload t)
    (s.port p).sendSeq) s
  have hbatch := congrArg Route.batch hroute
  have hqueue := Route.take_formBatch_queue (batchSize_le_length (s.port p).params.maxPayload t) (s.port p).sendSeq
  unfold formBatch
  rw [placeNotify_of_batch hbatch, hroute, hqueue]
  exact congrArg _ (State.updRoute_congr rfl)

/-- The NOTIFY of the current batch placed again, with the records as they stand (R74, R78). -/
theorem reofferBatch_of_batch {p : Port} {r : RouteNo} {b : Batch} {s : State} (h : (s.route r).batch = some b) :
    let awaiting : Batch := { b with phase := .awaitingAck, frame := (s.port p).sendSeq }
    reofferBatch p r s =
      (s.updRoute r fun t => { t with batch := some awaiting }).updPort p
        (PortState.place (notifyMessage r b true ((s.route r).queue.take b.n)) (.notify r b.tag)) := by
  intro awaiting
  have hset : (s.updRoute r fun t =>
      { t with batch := t.batch.map fun b => { b with phase := .awaitingAck, frame := (s.port p).sendSeq } }) =
      s.updRoute r fun t => { t with batch := some awaiting } := State.updRoute_congr (by rw [h]; rfl)
  have hroute := State.route_updRoute_same r (fun t => { t with batch := some awaiting }) s
  unfold reofferBatch
  rw [hset, placeNotify_of_batch (congrArg Route.batch hroute), hroute]
  rfl

/-- Settles O22: the placed NOTIFY, byte by byte, of a batch formed and of a batch offered again. -/
theorem batchesAreOffered : Obligations.BatchesAreOffered := by
  refine ⟨fun p r s hrun hchoice => ?_, fun p r b s hrun hchoice hb => ?_⟩
  · intro t n tag batch
    rw [exec_formBatch hrun hchoice, formBatch_eq]
    unfold notifyMessage
    rw [notifyFlags_first]
    rfl
  · intro batch
    rw [exec_reoffer hrun hchoice, reofferBatch_of_batch hb]
    unfold notifyMessage
    rw [notifyFlags_again]
    rfl

end Sys2Proof.Machine

namespace Sys2Proof.Machine

/-! ### O33: acknowledgement numbers on the send window -/

theorem applyAck_of_absent {p : Port} {a : Byte} {s : State} (h : ∀ w ∈ (s.port p).window, w.seq ≠ a) :
    applyAck p a s = s := by
  unfold applyAck
  rw [splitWindow_none a _ h]

/-- The frame that the number names is acknowledged with those before it, in their order (R149). -/
theorem applyAck_of_named {p : Port} {a : Byte} {s : State} {front rest : List Slot} {w : Slot}
    (hwindow : (s.port p).window = front ++ w :: rest) (hw : w.seq = a) (hfront : ∀ x ∈ front, x.seq ≠ a) :
    applyAck p a s =
      ((front ++ [w]).foldl (reportAcked p) (s.updPort p (PortState.ackWindow rest))).updPort p PortState.fallAsleep := by
  unfold applyAck
  rw [hwindow, splitWindow_some a front w rest hw hfront]

/-- The window after an acknowledgement, with the timer's time written out (R149, R150). -/
theorem PortState.ackWindow_eq (rest : List Slot) (P : PortState) :
    P.ackWindow rest =
      { P with
        window := rest, attempts := 0
        retransmit :=
          match rest with
          | [] => none
          | x :: _ => if x.sent = .sent then some (P.params.retransmit * 10000) else none
        expiryNow := .precluded
        round := P.round.filter fun q => rest.any fun x => x.seq == q
        roundsDue := if rest = [] then 0 else P.roundsDue } := by
  cases rest <;> rfl

theorem PortState.fallAsleep_eq (P : PortState) :
    P.fallAsleep =
      if P.session = .enteringDormant ∧ P.window = [] ∧ P.backlog = [] ∧ P.accepted = [] ∧ P.ackOwed = .clear ∧
          P.ackDemand = false then
        { P with session := .dormant, silence := none, retransmit := none }
      else P := by
  unfold PortState.fallAsleep
  simp only [PortState.quiet_iff]

/-- The Route Table's answer to an acknowledged NOTIFY, with the timer's time written out (R76). -/
theorem Route.offerAcked_eq (p : Port) (tag seq : Byte) (t : Route) :
    t.offerAcked p tag seq =
      match t.batch with
      | some b =>
        if t.owner = some p ∧ b.tag = tag ∧ b.frame = seq ∧ b.phase = .awaitingAck then
          if t.cfg.serviceTimeout = 0 then { t with batch := some { b with phase := .untimed }, timer := none }
          else { t with batch := some { b with phase := .timing }, timer := some (t.cfg.serviceTimeout * 100000) }
        else t
      | none => t := by
  unfold Route.offerAcked
  cases t.batch <;> rfl

/-- A change of a route and one of a port change different parts. -/
theorem State.updRoute_updPort (r : RouteNo) (g : Route → Route) (p : Port) (f : PortState → PortState) (s : State) :
    (s.updPort p f).updRoute r g = (s.updRoute r g).updPort p f := rfl

theorem reportAcked_of_plain {w : Slot} (h : w.role = .plain) (p : Port) (s : State) : reportAcked p s w = s := by
  unfold reportAcked
  rw [h]

theorem reportAcked_of_close {p : Port} {w : Slot} {s : State} (h : w.role = .close)
    (hs : (s.port p).session ≠ .closed) (hc : (s.port p).closing = true) : reportAcked p s w = orderlyEnd p s := by
  unfold reportAcked
  rw [h]
  exact if_pos ⟨hs, hc⟩

theorem reportAcked_of_refusedOpen {p : Port} {w : Slot} {s : State} (h : w.role = .refusedOpen)
    (hr : (s.port p).refusing = true) : reportAcked p s w = orderlyEnd p s := by
  unfold reportAcked
  rw [h]
  exact if_pos hr

theorem reportAcked_of_deviceReset {p : Port} {w : Slot} {s : State} (h : w.role = .deviceReset)
    (hr : (s.port p).resetPending = true) : reportAcked p s w = softReset s := by
  unfold reportAcked
  rw [h]
  exact if_pos hr

theorem reportAcked_of_notify {w : Slot} {r : RouteNo} {tag : Byte} (h : w.role = .notify r tag) (p : Port) (s : State) :
    reportAcked p s w = s.updRoute r (Route.offerAcked p tag w.seq) := by
  unfold reportAcked
  rw [h]

/-- Settles O33: the window first, then what waits for each frame, then the test for dormancy. -/
theorem acknowledgementIsApplied : Obligations.AcknowledgementIsApplied := by
  intro p a s
  refine ⟨applyAck_of_absent, fun front w rest hwindow hw hfront => ?_⟩
  intro acknowledged asleep
  have hack : PortState.ackWindow rest = acknowledged := funext (PortState.ackWindow_eq rest)
  have hsleep : PortState.fallAsleep = asleep := funext PortState.fallAsleep_eq
  have happly : applyAck p a s =
      ((front ++ [w]).foldl (reportAcked p) (s.updPort p acknowledged)).updPort p asleep := by
    rw [← hack, ← hsleep]
    exact applyAck_of_named hwindow hw hfront
  have hone : front = [] → applyAck p a s = (reportAcked p (s.updPort p acknowledged) w).updPort p asleep := by
    rintro rfl
    exact happly
  have hport : (s.updPort p acknowledged).port p = acknowledged (s.port p) := State.port_updPort_same p _ s
  refine ⟨fun hf hrole => ?_, fun r tag hf hrole => ?_, fun hf hrole hc hs => ?_, fun hf hrole hr => ?_,
    fun hf hrole hr => ?_, happly⟩
  · rw [hone hf, reportAcked_of_plain hrole, State.updPort_updPort]
  · rw [hone hf, reportAcked_of_notify hrole, hw, State.updRoute_updPort, State.updPort_updPort]
    exact congrArg (fun g => (s.updRoute r g).updPort p fun P => asleep (acknowledged P))
      (funext (Route.offerAcked_eq p tag a))
  · rw [hone hf, reportAcked_of_close hrole (by rw [hport]; exact hs) (by rw [hport]; exact hc)]
  · rw [hone hf, reportAcked_of_refusedOpen hrole (by rw [hport]; exact hr)]
  · rw [hone hf, reportAcked_of_deviceReset hrole (by rw [hport]; exact hr)]

end Sys2Proof.Machine

namespace Sys2Proof.Machine

/-! ### O53: CLAIM-ROUTE, RELEASE-ROUTE, RESUME-ROUTE -/

/-! #### The decision of a claim and the change of owner -/

theorem State.claim_of_own {p : Port} {r : RouteNo} {s : State} (h : (s.route r).owner = some p) (takeover : Bool) :
    s.claim p r takeover = .keep := by
  unfold State.claim
  rw [h]
  exact if_pos rfl

theorem State.claim_of_unowned {r : RouteNo} {s : State} (h : (s.route r).owner = none) (p : Port) (takeover : Bool) :
    s.claim p r takeover = .change := by
  unfold State.claim
  rw [h]

/-- A claim of the other port's route succeeds when that port is CLOSED or when mode and route allow a takeover (R100). -/
theorem State.claim_of_others {p : Port} {r : RouteNo} {s : State} (h : (s.route r).owner = some (otherPort p))
    (takeover : Bool) :
    s.claim p r takeover =
      if (s.port (otherPort p)).session = .closed ∨ takeover = true ∧ (s.route r).cfg.takeover = true then .change
      else .denied := by
  unfold State.claim
  rw [h]
  dsimp only
  rw [if_neg (otherPort_ne p).symm]
  by_cases hc : (s.port (otherPort p)).session = .closed <;> simp [hc]

theorem claimChanges_of_unowned {r : RouteNo} {s : State} (h : (s.route r).owner = none) (p : Port) :
    claimChanges p r s = (s.updRoute r (Route.giveTo (some p))).updPort p (PortState.clearRouteNotice r) := by
  unfold claimChanges
  rw [h]
  rfl

/-- The old owner of a claimed route is told of it unless it is CLOSED (R94, R101). -/
theorem claimChanges_of_others {p : Port} {r : RouteNo} {s : State} (h : (s.route r).owner = some (otherPort p)) :
    claimChanges p r s =
      ((s.updRoute r (Route.giveTo (some p))).updPort (otherPort p) fun P =>
        { P with
          routeNotices := P.routeNotices.set r.val
            (if (s.port (otherPort p)).session = .closed then .none else .lost) }).updPort p
        (PortState.clearRouteNotice r) := by
  unfold claimChanges
  rw [h]
  exact congrArg (State.updPort p (PortState.clearRouteNotice r)) (State.updPort_congr rfl)

theorem tellOldOwner_route (r q : RouteNo) (owner : Option Port) (s : State) :
    (tellOldOwner r owner s).route q = s.route q := by
  cases owner <;> rfl

theorem claimChanges_route (p : Port) (r : RouteNo) (s : State) :
    (claimChanges p r s).route r = (s.route r).giveTo (some p) := by
  unfold claimChanges
  rw [State.route_updPort, tellOldOwner_route, State.route_updRoute_same]

/-- A claim reads and changes the route and the ports' route notices, a reply only a backlog. -/
theorem claimChanges_withReply (p : Port) (r : RouteNo) (q : Port) (m : List Byte) (s : State) :
    (claimChanges p r s).withReply q m = claimChanges p r (s.withReply q m) := by
  have howner : ((s.withReply q m).route r).owner = (s.route r).owner := rfl
  unfold claimChanges
  rw [howner]
  cases (s.route r).owner with
  | none => cases p <;> cases q <;> rfl
  | some o => cases p <;> cases q <;> cases o <;> rfl

theorem State.session_answered (p q : Port) (m : List Byte) (s : State) :
    ((s.answered p m).port q).session = (s.port q).session := by
  cases p <;> cases q <;> rfl

/-! #### The replies -/

theorem ownerCode_some (p : Port) : ownerCode (some p) = portCode p := by cases p <;> rfl

theorem claimRouteChecked_of_denied {p : Port} {r : RouteNo} {takeover : Bool} {s : State}
    (h : s.claim p r takeover = .denied) (tag : Byte) :
    claimRouteChecked p tag (r, takeover) s =
      s.withReply p [0xA2, tag, 0x07, byte r.val, ownerCode (s.route r).owner] := by
  unfold claimRouteChecked
  dsimp only
  rw [h]
  rfl

theorem claimRouteChecked_of_keep {p : Port} {r : RouteNo} {takeover : Bool} {s : State}
    (h : s.claim p r takeover = .keep) (tag : Byte) :
    claimRouteChecked p tag (r, takeover) s =
      handOnHeld (configChanged p claimRouteCode (s.withReply p
        [0xA2, tag, 0x00, byte r.val, ownerCode (s.route r).owner, portCode p, byte (s.route r).state.code])) := by
  unfold claimRouteChecked
  dsimp only
  rw [h]
  rfl

theorem claimRouteChecked_of_change {p : Port} {r : RouteNo} {takeover : Bool} {s : State}
    (h : s.claim p r takeover = .change) (tag : Byte) :
    claimRouteChecked p tag (r, takeover) s =
      handOnHeld (configChanged p claimRouteCode (claimChanges p r (s.withReply p
        [0xA2, tag, 0x00, byte r.val, ownerCode (s.route r).owner, portCode p,
          if (s.route r).queue = [] then 0x00 else 0x01]))) := by
  unfold claimRouteChecked State.stateByte
  dsimp only
  rw [h]
  dsimp only
  rw [claimChanges_route, Route.giveTo_state, answerOk_eq_withReply, claimChanges_withReply]
  rfl

theorem releaseRouteChecked_of_owner {p : Port} {r : RouteNo} {s : State} (h : (s.route r).owner = some p) (tag : Byte) :
    releaseRouteChecked p tag r s =
      handOnHeld (configChanged p releaseRouteCode (releaseRoute p r (s.withReply p
        [0xA3, tag, 0x00, byte r.val, if (s.route r).queue = [] then 0x00 else 0x01]))) := by
  unfold releaseRouteChecked State.stateByte
  rw [if_pos h]
  have hroute : (releaseRoute p r s).route r = (s.route r).giveTo none := State.route_updRoute_same r _ s
  dsimp only
  rw [hroute, Route.giveTo_state]
  cases p <;> rfl

theorem releaseRouteChecked_of_notOwner {p : Port} {r : RouteNo} {s : State} (h : (s.route r).owner ≠ some p) (tag : Byte) :
    releaseRouteChecked p tag r s = refuse p releaseRouteCode tag .notOwner s := if_neg h

theorem resumeRouteChecked_of_owner {p : Port} {r : RouteNo} {s : State} (h : (s.route r).owner = some p) (tag : Byte) :
    resumeRouteChecked p tag r s =
      (resumeRoute r s).withReply p [0xA4, tag, 0x00, byte r.val, byte ((resumeRoute r s).route r).state.code] := if_pos h

theorem resumeRouteChecked_of_notOwner {p : Port} {r : RouteNo} {s : State} (h : (s.route r).owner ≠ some p) (tag : Byte) :
    resumeRouteChecked p tag r s = refuse p resumeRouteCode tag .notOwner s := if_neg h

/-! #### The requests -/

theorem readClaim_badRoute {b : Byte} (h : 8 ≤ b.toNat) (mode : Byte) : readClaim b mode = .error .badRoute := by
  unfold readClaim
  rw [readRoute_bad h]
  rfl

theorem readClaim_badMode {b mode : Byte} (h : b.toNat < 8) (hm : 1 < mode.toNat) :
    readClaim b mode = .error .badValue := by
  unfold readClaim
  rw [readRoute_ok (r := ⟨b.toNat, h⟩) rfl, readFlag_bad hm]
  rfl

theorem readFlag_of_le_one {b : Byte} (h : b.toNat ≤ 1) : readFlag b = .ok (decide (b = 1)) := by
  obtain ⟨v, hread, rfl⟩ | ⟨hbad, -⟩ := readFlag_cases b
  · rw [hread]
    cases v <;> rfl
  · omega

/-- Mode 1 is TAKEOVER (R99). -/
theorem readClaim_ok {b mode : Byte} {r : RouteNo} (h : b.toNat = r.val) (hm : mode.toNat ≤ 1) :
    readClaim b mode = .ok (r, decide (mode = 1)) := by
  unfold readClaim
  rw [readRoute_ok h, readFlag_of_le_one hm]
  rfl

theorem exec_claimRoute {p : Port} {tag b mode : Byte} {s : State} (h : Takes p 0x22 [tag, b, mode] s) :
    exec (.claimRoute p [tag, b, mode]) s =
      .next (checked p claimRouteCode tag (readClaim b mode) (claimRouteChecked p tag) (s.afterTake p)) :=
  taken_request_tag h (claimRouteWith p)

theorem exec_releaseRoute {p : Port} {tag b : Byte} {s : State} (h : Takes p 0x23 [tag, b] s) :
    exec (.releaseRoute p [tag, b]) s =
      .next (checked p releaseRouteCode tag (readRoute b) (releaseRouteChecked p tag) (s.afterTake p)) :=
  taken_request_tag h (releaseRouteWith p)

theorem exec_resumeRoute {p : Port} {tag b : Byte} {s : State} (h : Takes p 0x24 [tag, b] s) :
    exec (.resumeRoute p [tag, b]) s =
      .next (checked p resumeRouteCode tag (readRoute b) (resumeRouteChecked p tag) (s.afterTake p)) :=
  taken_request_tag h (resumeRouteWith p)

/-- Settles O53: the range checks, then the owner, by whom the route belongs to before the request. -/
theorem routesChangeHands : Obligations.RoutesChangeHands := by
  intro p tag b mode s given after clears changed
  have hgive : ∀ owner, Route.giveTo owner = given owner := Route.giveTo_eq
  refine ⟨fun h => ?_, fun h => ?_, fun h => ?_⟩
  · intro claims
    have hexec : claims = _ := exec_claimRoute h
    refine ⟨fun hb => ?_, fun hb hm => ?_, fun r hb hm => ?_⟩
    · rw [hexec, checked_error (readClaim_badRoute hb mode)]
      rfl
    · rw [hexec, checked_error (readClaim_badMode hb hm)]
      rfl
    · have hbyte : byte r.val = b := byte_of_toNat hb
      rw [checked_ok (readClaim_ok hb hm)] at hexec
      intro owner other
      have hsession : ∀ m, (((s.afterTake p).withReply p m).port (otherPort p)).session = other :=
        fun m => State.session_answered p (otherPort p) m s
      refine ⟨fun ho => ?_, fun ho => ?_, fun ho hc => ?_, fun ho hc hm => ?_⟩
      all_goals
        have howner : ((s.afterTake p).route r).owner = _ := ho
      · rw [hexec, claimRouteChecked_of_keep (State.claim_of_own howner _), howner, hbyte, ownerCode_some]
        rfl
      · rw [hexec, claimRouteChecked_of_change (State.claim_of_unowned howner p _), howner, hbyte,
          claimChanges_of_unowned (s := (s.afterTake p).withReply p _) ho, hgive]
        rfl
      · have hclaim : (s.afterTake p).claim p r (decide (mode = 1)) = .change := by
          rw [State.claim_of_others howner, State.session_afterTake]
          exact if_pos (hc.imp_right fun h => ⟨decide_eq_true h.1, h.2⟩)
        rw [hexec, claimRouteChecked_of_change hclaim, howner, hbyte, ownerCode_some,
          claimChanges_of_others (s := (s.afterTake p).withReply p _) ho, hsession, hgive]
        rfl
      · have hkept : ¬(decide (mode = 1) = true ∧ (s.route r).cfg.takeover = true) := by
          rintro ⟨hmode, hcfg⟩
          obtain rfl | hcfg' := hm
          · exact absurd hmode (by decide)
          · exact absurd (hcfg.symm.trans hcfg') (by decide)
        have hclaim : (s.afterTake p).claim p r (decide (mode = 1)) = .denied := by
          rw [State.claim_of_others howner, State.session_afterTake]
          exact if_neg (not_or.2 ⟨hc, hkept⟩)
        rw [hexec, claimRouteChecked_of_denied hclaim, howner, hbyte, ownerCode_some]
        rfl
  · intro releases
    have hexec : releases = _ := exec_releaseRoute h
    refine ⟨fun hb => ?_, fun r hb => ⟨fun ho => ?_, fun ho => ?_⟩⟩
    · rw [hexec, checked_error (readRoute_bad hb)]
      rfl
    · rw [hexec, checked_ok (readRoute_ok hb), releaseRouteChecked_of_notOwner (s := s.afterTake p) ho]
      rfl
    · rw [hexec, checked_ok (readRoute_ok hb), releaseRouteChecked_of_owner (s := s.afterTake p) ho,
        byte_of_toNat hb, releaseRoute, hgive]
      rfl
  · intro resumes
    have hexec : resumes = _ := exec_resumeRoute h
    refine ⟨fun hb => ?_, fun r hb => ?_⟩
    · rw [hexec, checked_error (readRoute_bad hb)]
      rfl
    · intro t
      rw [checked_ok (readRoute_ok hb)] at hexec
      refine ⟨fun ho => ?_, fun ho => ?_⟩
      · rw [hexec, resumeRouteChecked_of_notOwner (s := s.afterTake p) ho]
        rfl
      · rw [hexec, resumeRouteChecked_of_owner (s := s.afterTake p) ho, byte_of_toNat hb]
        rfl

end Sys2Proof.Machine

namespace Sys2Proof.Machine

/-! ### O54: SERVICE-DONE -/

theorem readServiceDone_badRoute {b0 : Byte} (h : 8 ≤ b0.toNat) (b1 b2 : Byte) :
    readServiceDone b0 b1 b2 = .error .badRoute := by
  unfold readServiceDone
  rw [readRoute_bad h]
  rfl

/-- With the route in range, tag 0 and a count above 16 are BAD_VALUE (R81). -/
theorem readServiceDone_badValue {b0 b1 b2 : Byte} (h : b0.toNat < 8) (hbad : b1 = 0 ∨ 16 < b2.toNat) :
    readServiceDone b0 b1 b2 = .error .badValue := by
  unfold readServiceDone
  rw [readRoute_ok (r := ⟨b0.toNat, h⟩) rfl, Result.ok_bind]
  by_cases htag : b1 = 0
  · rw [if_pos htag]
    rfl
  · rw [if_neg htag, Result.ok_bind, readRange_bad (fun hk => hbad.elim htag (Nat.not_lt.2 hk.2))]
    rfl

theorem readServiceDone_ok {b0 b1 b2 : Byte} {r : RouteNo} (h : b0.toNat = r.val) (htag : b1 ≠ 0)
    (hk : b2.toNat ≤ 16) : readServiceDone b0 b1 b2 = .ok (r, b1, b2.toNat) := by
  unfold readServiceDone
  rw [readRoute_ok h, Result.ok_bind, if_neg htag, readRange_ok ⟨Nat.zero_le _, hk⟩]
  rfl

theorem Route.batchOf_of_notInService {t : Route} (h : t.state ≠ .inService) (tag : Byte) : t.batchOf tag = none := by
  unfold Route.batchOf
  cases t.batch with
  | none => rfl
  | some b => exact if_neg fun hb => h hb.1

theorem Route.batchOf_of_otherTag {t : Route} {b : Batch} {tag : Byte} (hb : t.batch = some b) (h : b.tag ≠ tag) :
    t.batchOf tag = none := by
  unfold Route.batchOf
  rw [hb]
  exact if_neg fun hb => h hb.2

theorem Route.batchOf_of_tag {t : Route} {b : Batch} {tag : Byte} (hb : t.batch = some b) (hs : t.state = .inService)
    (h : b.tag = tag) : t.batchOf tag = some b := by
  unfold Route.batchOf
  rw [hb]
  exact if_pos ⟨hs, h⟩

/-- A route after a SERVICE-DONE, with the records' return written out (R82). -/
theorem Route.serviced_eq (k : Nat) (b : Batch) (t : Route) :
    t.serviced k b =
      { t with
        queue := (t.queue.drop k).map fun x =>
          if x.state = .offered then { x with state := .pending, redelivered := true } else x
        lost := t.lost - b.snapshot, batch := none, timer := none } := by
  unfold Route.serviced
  rw [Rec.returned_eq]

theorem completeBatch_route (r : RouteNo) (k : Nat) (b : Batch) (s : State) :
    (completeBatch r k b s).route r = (s.route r).serviced k b := by
  unfold completeBatch
  rw [closeAll_eq]
  exact State.route_updRoute_same r _ s

theorem completeBatch_withReply (r : RouteNo) (k : Nat) (b : Batch) (p : Port) (m : List Byte) (s : State) :
    (completeBatch r k b s).withReply p m = completeBatch r k b (s.withReply p m) := by
  unfold completeBatch
  rw [← State.closeAll_withReply]
  rfl

theorem serviceDoneChecked_of_notOwner {p : Port} {r : RouteNo} {s : State} (h : (s.route r).owner ≠ some p)
    (tag batchTag : Byte) (k : Nat) :
    serviceDoneChecked p tag (r, batchTag, k) s = refuse p serviceDoneCode tag .notOwner s := if_neg h

theorem serviceDoneChecked_of_stale {p : Port} {r : RouteNo} {s : State} {batchTag : Byte}
    (h : (s.route r).owner = some p) (hb : (s.route r).batchOf batchTag = none) (tag : Byte) (k : Nat) :
    serviceDoneChecked p tag (r, batchTag, k) s = refuse p serviceDoneCode tag .stale s := by
  unfold serviceDoneChecked
  dsimp only
  rw [if_pos h, hb]

theorem serviceDoneChecked_of_tooMany {p : Port} {r : RouteNo} {s : State} {batchTag : Byte} {b : Batch} {k : Nat}
    (h : (s.route r).owner = some p) (hb : (s.route r).batchOf batchTag = some b) (hk : b.n < k) (tag : Byte) :
    serviceDoneChecked p tag (r, batchTag, k) s = refuse p serviceDoneCode tag .badValue s := by
  unfold serviceDoneChecked
  dsimp only
  rw [if_pos h, hb]
  exact if_pos hk

/-- A SERVICE-DONE that passes: the batch ends, and the reply tells the route as it is left (R82). -/
theorem serviceDoneChecked_of_batch {p : Port} {r : RouteNo} {s : State} {batchTag : Byte} {b : Batch} {k : Nat}
    (h : (s.route r).owner = some p) (hb : (s.route r).batchOf batchTag = some b) (hk : k ≤ b.n) (tag : Byte) :
    serviceDoneChecked p tag (r, batchTag, k) s =
      handOnHeld (completeBatch r k b (s.withReply p
        ([0xA5, tag, 0x00, byte r.val, batchTag, byte k, byte (b.n - k),
          byte ((s.route r).serviced k b).queue.length] ++ leBytes 2 ((s.route r).serviced k b).lost))) := by
  unfold serviceDoneChecked
  dsimp only
  rw [if_pos h, hb]
  dsimp only
  rw [if_neg (Nat.not_lt.2 hk), completeBatch_route, answerOk_eq_withReply, completeBatch_withReply]
  rfl

/-- Settles O54: the checks in their order, and the batch's end by the route that it leaves. -/
theorem serviceDoneEndsTheBatch : Obligations.ServiceDoneEndsTheBatch := by
  intro p tag b0 b1 b2 s h refused
  have hexec : exec (.serviceDone p [tag, b0, b1, b2]) s =
      .next (checked p serviceDoneCode tag (readServiceDone b0 b1 b2) (serviceDoneChecked p tag) (s.afterTake p)) :=
    taken_request_tag h (serviceDoneWith p)
  have hrefused : ∀ r, readServiceDone b0 b1 b2 = .error r → refused r.code := fun r hr => by
    rw [checked_error hr] at hexec
    exact hexec
  refine ⟨fun hr => ?_, fun hr hbad => ?_, fun r hr htag hcount => ?_⟩
  · exact hrefused .badRoute (readServiceDone_badRoute hr b1 b2)
  · exact hrefused .badValue (readServiceDone_badValue hr hbad)
  · rw [checked_ok (readServiceDone_ok hr htag hcount)] at hexec
    refine ⟨fun ho => ?_, fun ho => ⟨fun hs => ?_, fun b hb hs => ⟨fun ht => ?_, fun ht hn => ?_, fun ht hn => ?_⟩⟩⟩
    · rw [serviceDoneChecked_of_notOwner (s := s.afterTake p) ho] at hexec
      exact hexec
    · rw [serviceDoneChecked_of_stale (s := s.afterTake p) ho (Route.batchOf_of_notInService hs b1)] at hexec
      exact hexec
    · rw [serviceDoneChecked_of_stale (s := s.afterTake p) ho (Route.batchOf_of_otherTag hb ht)] at hexec
      exact hexec
    · rw [serviceDoneChecked_of_tooMany (s := s.afterTake p) ho (Route.batchOf_of_tag hb hs ht) hn] at hexec
      exact hexec
    · intro k queue lost
      rw [serviceDoneChecked_of_batch (s := s.afterTake p) ho (Route.batchOf_of_tag hb hs ht) hn, byte_of_toNat hr,
        byte_of_toNat (rfl : b2.toNat = b2.toNat), completeBatch, funext (Route.serviced_eq b2.toNat b)] at hexec
      exact hexec

end Sys2Proof.Machine

namespace Sys2Proof.Machine

/-! ## Actions, output pins and hard reset -/

/-! ### O25: the level on OUTn -/

theorem outPin_of_hardReset {s : State} (h : s.hardReset ≠ none) (n : ActionNo) : s.outPin n = .highImpedance :=
  if_pos (Option.isSome_iff_ne_none.2 h)

theorem outPin_of_running {s : State} (h : s.running) (n : ActionNo) :
    s.outPin n = pinOf (s.action n).cfg.activeHigh (s.action n).cfg.pushPull (s.action n).active := by
  have h' : s.hardReset = none := h
  unfold State.outPin
  rw [h']
  rfl

theorem Action.active_of_fired {a : Action} {cause : FireCause} {pulse : Option Nat} (h : a.state = .fired cause pulse) :
    a.active = true := by
  unfold Action.active
  rw [h]

/-- The output is inactive in IDLE and in GRACE (R115). -/
theorem Action.active_of_unfired {a : Action} (h : a.state = .idle ∨ ∃ left, a.state = .grace left) :
    a.active = false := by
  unfold Action.active
  obtain h | ⟨left, h⟩ := h <;> rw [h]

theorem pinOf_active (activeHigh pushPull : Bool) :
    pinOf activeHigh pushPull true =
      if activeHigh then (if pushPull then .drivenHigh else .highImpedance) else .drivenLow := by
  cases activeHigh <;> rfl

theorem pinOf_inactive (activeHigh pushPull : Bool) :
    pinOf activeHigh pushPull false =
      if activeHigh then .drivenLow else (if pushPull then .drivenHigh else .highImpedance) := by
  cases activeHigh <;> rfl

/-- Settles O25: whether the output is active, and what the pin then carries. -/
theorem outputPinFollowsTheAction : Obligations.OutputPinFollowsTheAction := by
  refine fun n s => ⟨fun h => outPin_of_hardReset h n, fun h => ⟨?_, fun hunfired => ?_⟩⟩
  · rintro ⟨cause, pulse, hfired⟩
    rw [outPin_of_running h, Action.active_of_fired hfired, pinOf_active]
  · rw [outPin_of_running h, Action.active_of_unfired hunfired, pinOf_inactive]

/-! ### O24: the end of a grace and of a pulse -/

theorem PortState.hearGraceEnd_of_told {n : ActionNo} {P : PortState} (h : P.told[n.val] = true) :
    P.hearGraceEnd n =
      { P with told := P.told.set n.val false, actionNotices := P.actionNotices.set n.val .ended } := if_pos h

theorem PortState.hearGraceEnd_of_flagged {n : ActionNo} {P : PortState} (h : P.told[n.val] = false)
    (hp : P.actionNotices[n.val] = .pending) :
    P.hearGraceEnd n = { P with actionNotices := P.actionNotices.set n.val .none } :=
  (if_neg (Bool.eq_false_iff.1 h)).trans (if_pos hp)

theorem PortState.hearGraceEnd_of_unaware {n : ActionNo} {P : PortState} (h : P.told[n.val] = false)
    (hp : P.actionNotices[n.val] ≠ .pending) : P.hearGraceEnd n = P :=
  (if_neg (Bool.eq_false_iff.1 h)).trans (if_neg hp)

theorem exec_graceExpiry {n : ActionNo} {s : State} {left : Nat} (h : s.running)
    (hg : (s.action n).state = .grace left) :
    exec (.graceExpiry n) s = .next (handOnHeld (fire n .graceExpiry (endGrace n .fired none s))) := by
  refine (taken_of_running h (graceExpires n)).trans ?_
  unfold graceExpires
  rw [hg]

theorem exec_pulseExpiry {n : ActionNo} {s : State} {cause : FireCause} {left : Nat} (h : s.running)
    (hf : (s.action n).state = .fired cause (some left)) :
    exec (.pulseExpiry n) s = .next (s.updAction n fun a => { a with state := .idle }) := by
  refine (taken_of_running h (pulseExpires n)).trans ?_
  unfold pulseExpires
  rw [hf]

/-- A firing, with the update of the action given by any function that agrees with it. -/
theorem fire_eq_raise {f : Action → Action} {cause : FireCause}
    (hf : ∀ a, f a =
      { a with state := .fired cause (if a.cfg.shape = .pulse then some (pulseTime a.cfg.width) else none) })
    (n : ActionNo) (s : State) :
    fire n cause s =
      (s.updAction n f).raise 53 (BitVec.ofNat 16 (n.val + 256 * (fireCauseCode cause).toNat)) := by
  rw [funext hf]
  rfl

/-- Settles O24: what a port hears of the end by what it was told, and the two expiries. -/
theorem gracesAndPulsesEnd : Obligations.GracesAndPulsesEnd := by
  refine ⟨fun n outcome endedBy s => ⟨rfl, fun P => ⟨P.hearGraceEnd_of_told, P.hearGraceEnd_of_flagged,
    P.hearGraceEnd_of_unaware⟩⟩, fun n left s h => ⟨fun hg => ?_, fun cause hf => exec_pulseExpiry h hf⟩⟩
  rw [exec_graceExpiry h hg]
  refine congrArg Host.Outcome.next (congrArg handOnHeld (fire_eq_raise (fun a => ?_) n (endGrace n .fired none s)))
  cases a.cfg.shape with
  | level => rfl
  | pulse => cases a.cfg.width <;> rfl

/-! ### O4: hard reset and its release -/

theorem joinCause_eq (standing : Option HardCause) (cause : HardCause) :
    some (joinCause standing cause) = if standing = some .powerOn then some .powerOn else some cause := by
  cases standing with
  | none => rfl
  | some k => cases k <;> rfl

theorem wakePin_of_hardReset {s : State} (h : s.hardReset ≠ none) (p : Port) : s.wakePin p = .highImpedance :=
  if_pos (Option.isSome_iff_ne_none.2 h)

theorem wake_of_not_dormant {s : State} {p : Port} (h : (s.port p).session ≠ .dormant) : s.wake p = false := by
  unfold State.wake
  rw [beq_eq_false_iff_ne.2 h, Bool.false_and]

theorem exec_hardReset (cause : HardCause) (s : State) :
    exec (.hardReset cause) s = .next (.heldInReset s.pending s.arrivals (joinCause s.hardReset cause)) := rfl

theorem exec_resetRelease_of_running {s : State} (h : s.running) (rate1 rate0 : Bool) :
    exec (.resetRelease rate1 rate0) s = .next s := by
  have h' : s.hardReset = none := h
  dsimp only [exec, execResetRelease]
  rw [h']

theorem exec_resetRelease_of_hardReset {s : State} {cause : HardCause} (h : s.hardReset = some cause)
    (rate1 rate0 : Bool) :
    exec (.resetRelease rate1 rate0) s = .next (.released s.pending s.arrivals cause rate1 rate0) := by
  dsimp only [exec, execResetRelease]
  rw [h]

section Released

variable (pending : List Instr) (arrivals : Nat) (cause : HardCause) (rate1 rate0 : Bool)

theorem released_line (i : LineNo) :
    (State.released pending arrivals cause rate1 rate0).line i = Line.restarted false := Vector.getElem_replicate _

theorem released_source (i : SourceNo) :
    (State.released pending arrivals cause rate1 rate0).source i = Source.initial i := Vector.getElem_ofFn _

theorem released_action (n : ActionNo) :
    (State.released pending arrivals cause rate1 rate0).action n = Action.initial := Vector.getElem_replicate _

theorem released_port (p : Port) :
    (State.released pending arrivals cause rate1 rate0).port p = PortState.initial (resetCauseOf cause) := by
  cases p <;> rfl

theorem released_wake (p : Port) : (State.released pending arrivals cause rate1 rate0).wake p = false := by
  refine wake_of_not_dormant ?_
  rw [released_port]
  exact Session.noConfusion

end Released

theorem PortState.initial_routeNotices (cause : ResetCause) (r : RouteNo) :
    (PortState.initial cause).routeNotices[r.val] = .none := Vector.getElem_replicate _

theorem PortState.initial_actionNotices (cause : ResetCause) (n : ActionNo) :
    (PortState.initial cause).actionNotices[n.val] = .none := Vector.getElem_replicate _

theorem PortState.initial_told (cause : ResetCause) (n : ActionNo) :
    (PortState.initial cause).told[n.val] = false := Vector.getElem_replicate _

/-- Settles O4, from the part held in reset and the part released, block by block. -/
theorem hardResetAndRelease : Obligations.HardResetAndRelease := by
  refine fun c r1 r0 s => ⟨⟨_, exec_hardReset c s, joinCause_eq .., outPin_of_hardReset (Option.some_ne_none _),
    wakePin_of_hardReset (Option.some_ne_none _), rfl, rfl⟩, fun h => exec_resetRelease_of_running h r1 r0, fun h => ?_⟩
  refine ⟨_, exec_resetRelease_of_hardReset h r1 r0, rfl, rfl, rfl, rfl, rfl, rfl, rfl, rfl, rfl, fun i => ?_,
    fun i => released_source .., fun r => released_route .., fun n => released_action .., fun p => ?_⟩
  · rw [released_line]
    exact ⟨false, rfl⟩
  · rw [released_wake, released_port]
    exact ⟨rfl, rfl, rfl, rfl, rfl, by cases c <;> rfl, rfl, rfl, rfl, rfl, rfl, rfl, rfl, rfl, rfl, rfl, rfl, rfl, rfl,
      rfl, rfl, rfl, rfl, rfl, rfl, rfl, PortState.initial_routeNotices _,
      fun n => ⟨PortState.initial_actionNotices _ n, PortState.initial_told _ n⟩, rfl⟩

end Sys2Proof.Machine

namespace Sys2Proof.Machine

/-! ## O58: the Link Ports' sessions, windows and backlogs

`PortState.InOrder` says fact by fact of one port what the invariants of the ports say of both. First stands what each change
of a port keeps of it, then what each command does to the two ports. -/

/-- A port as R135, R148, R155 to R158, R170, R171 and R179 have it: the places of its backlog and its window in range, and
what it holds while it is CLOSED, while it is DORMANT, and while a reported break stands. -/
structure PortState.InOrder (P : PortState) : Prop where
  places : P.placesUsed ≤ 8
  windowLow : 1 ≤ P.params.window
  windowHigh : P.params.window ≤ 4
  windowFits : P.window.length ≤ P.params.window
  closed_places : P.session = .closed → P.placesUsed = 0
  closed_window : P.session = .closed → P.window = []
  closed_backlog : P.session = .closed → P.backlog = []
  closed_retransmit : P.session = .closed → P.retransmit = none
  closed_silence : P.session = .closed → P.silence = none
  closed_report : P.session = .closed → P.report = .clear
  closed_ackOwed : P.session = .closed → P.ackOwed = .clear
  closed_ackDemand : P.session = .closed → P.ackDemand = false
  closed_closing : P.session = .closed → P.closing = false
  closed_refusing : P.session = .closed → P.refusing = false
  closed_routeNotices : P.session = .closed → P.routeNotices = Vector.replicate 8 .none
  closed_actionNotices : P.session = .closed → P.actionNotices = Vector.replicate 16 .none
  closed_told : P.session = .closed → P.told = Vector.replicate 16 false
  dormant_window : P.session = .dormant → P.window = []
  dormant_backlog : P.session = .dormant → P.backlog = []
  dormant_accepted : P.session = .dormant → P.accepted = []
  dormant_retransmit : P.session = .dormant → P.retransmit = none
  dormant_silence : P.session = .dormant → P.silence = none
  broken_session : P.breakReported = true → P.session = .closed
  broken_receiver : P.breakReported = true → P.receiver = .hunt
  broken_accepted : P.breakReported = true → P.accepted = []
  broken_announce : P.breakReported = true → P.announce = .suspended

/-- Both ports. -/
def State.PortsInOrder (s : State) : Prop := ∀ p, (s.port p).InOrder

theorem PortState.inOrder_iff (P : PortState) :
    P.InOrder ↔ (P.placesUsed ≤ 8 ∧ (P.session = .closed → P.placesUsed = 0)) ∧ P.quietOutsideSession ∧
      1 ≤ P.params.window ∧ P.params.window ≤ 4 ∧ P.window.length ≤ P.params.window := by
  unfold PortState.quietOutsideSession
  simp only [forall_and]
  constructor
  · rintro ⟨places, low, high, fits, cp, cw, cb, cr, cs, crep, co, cd, ccl, cref, crn, can, ct, dw, db, da, dr, ds, bs, br,
      ba, ban⟩
    exact ⟨⟨places, cp⟩, ⟨⟨cw, cb, cr, cs, crep, co, cd, ccl, cref, crn, can, ct⟩, ⟨dw, db, da, dr, ds⟩, bs, br, ba, ban⟩,
      low, high, fits⟩
  · rintro ⟨⟨places, cp⟩, ⟨⟨cw, cb, cr, cs, crep, co, cd, ccl, cref, crn, can, ct⟩, ⟨dw, db, da, dr, ds⟩, bs, br, ba, ban⟩,
      low, high, fits⟩
    exact ⟨places, low, high, fits, cp, cw, cb, cr, cs, crep, co, cd, ccl, cref, crn, can, ct, dw, db, da, dr, ds, bs, br,
      ba, ban⟩

theorem State.portsInOrder_iff (s : State) :
    s.PortsInOrder ↔ s.placesWithinEight ∧ s.quietOutsideSessions ∧ s.windowsFit := by
  unfold State.placesWithinEight State.quietOutsideSessions State.windowsFit
  rw [← forall_and, ← forall_and]
  exact forall_congr' fun p => (s.port p).inOrder_iff

/-! ### What changes of one port keep -/

variable {P : PortState}

/-- A port that is UP or ENTERING_DORMANT (R147). -/
def PortState.Awake (P : PortState) : Prop := P.session = .up ∨ P.session = .enteringDormant

theorem PortState.Awake.ne_closed (h : P.Awake) : P.session ≠ .closed := by
  obtain h | h := h <;> rw [h] <;> decide

theorem PortState.Awake.ne_dormant (h : P.Awake) : P.session ≠ .dormant := by
  obtain h | h := h <;> rw [h] <;> decide

theorem PortState.awake_of_ne (hc : P.session ≠ .closed) (hd : P.session ≠ .dormant) : P.Awake := by
  unfold PortState.Awake
  cases h : P.session with
  | closed => exact absurd h hc
  | dormant => exact absurd h hd
  | up => exact .inl rfl
  | enteringDormant => exact .inr rfl

/-- No break stands in a session (R155). -/
theorem PortState.InOrder.unbroken (h : P.InOrder) (hs : P.session ≠ .closed) : P.breakReported = false := by
  cases hb : P.breakReported with
  | false => rfl
  | true => exact absurd (h.broken_session hb) hs

/-- A port with frames in its window is awake (R156, R170). -/
theorem PortState.InOrder.awake_of_window (h : P.InOrder) (hw : P.window ≠ []) : P.Awake :=
  PortState.awake_of_ne (fun hc => hw (h.closed_window hc)) fun hd => hw (h.dormant_window hd)

/-- Of a port with a session only the places, the window and what it holds while DORMANT are in question. -/
theorem PortState.inOrder_of_session (hs : P.session ≠ .closed) (hb : P.breakReported = false) (places : P.placesUsed ≤ 8)
    (low : 1 ≤ P.params.window) (high : P.params.window ≤ 4) (fits : P.window.length ≤ P.params.window)
    (hdormant : P.session = .dormant →
      P.window = [] ∧ P.backlog = [] ∧ P.accepted = [] ∧ P.retransmit = none ∧ P.silence = none) : P.InOrder := by
  have hc {a : Prop} (h : P.session = .closed) : a := absurd h hs
  have hbroken {a : Prop} (h : P.breakReported = true) : a := nomatch hb.symm.trans h
  simp only [forall_and] at hdormant
  obtain ⟨dw, db, da, dr, ds⟩ := hdormant
  exact ⟨places, low, high, fits, hc, hc, hc, hc, hc, hc, hc, hc, hc, hc, hc, hc, hc, dw, db, da, dr, ds, hbroken, hbroken,
    hbroken, hbroken⟩

/-- Of a port that is awake only the places and the window are in question. -/
theorem PortState.inOrder_of_awake (ha : P.Awake) (hb : P.breakReported = false) (places : P.placesUsed ≤ 8)
    (low : 1 ≤ P.params.window) (high : P.params.window ≤ 4) (fits : P.window.length ≤ P.params.window) : P.InOrder :=
  PortState.inOrder_of_session ha.ne_closed hb places low high fits fun hd => absurd hd ha.ne_dormant

/-! #### The receiver -/

theorem PortState.InOrder.record (h : P.InOrder) (set : ReportFlags → ReportFlags) : (P.record set).InOrder := by
  unfold PortState.record
  split
  · exact h
  next hs => exact { h with closed_report := fun hc => absurd hc hs }

theorem PortState.InOrder.demand (h : P.InOrder) : P.demand.InOrder := by
  unfold PortState.demand
  split
  · exact h
  next hs => exact { h with closed_ackDemand := fun hc => absurd hc hs }

theorem PortState.InOrder.toHunt (h : P.InOrder) : P.toHunt.InOrder := { h with broken_receiver := fun _ => rfl }

/-- The receiver moves only while no break stands (R155). -/
theorem PortState.InOrder.withReceiver (h : P.InOrder) (hb : P.breakReported = false) (receiver : Receiver) :
    PortState.InOrder { P with receiver := receiver } :=
  { h with broken_receiver := fun hb' => nomatch hb.symm.trans hb' }

theorem PortState.record_breakReported (set : ReportFlags → ReportFlags) (P : PortState) :
    (P.record set).breakReported = P.breakReported := by
  rw [PortState.record_eq]

theorem PortState.InOrder.takeSync (h : P.InOrder) (hb : P.breakReported = false) : P.takeSync.InOrder := by
  unfold PortState.takeSync
  cases P.receiver with
  | hunt => exact h.withReceiver hb _
  | header gathered => exact h
  | payload header gathered => exact h
  | skip left => exact h

/-- One of two ports that are in order. -/
theorem PortState.InOrder.ite {c : Prop} [Decidable c] {Q R : PortState} (hQ : Q.InOrder) (hR : R.InOrder) :
    (if c then Q else R).InOrder := by
  split
  · exact hQ
  · exact hR

theorem PortState.InOrder.judgeHeader (h : P.InOrder) (hb : P.breakReported = false) (header : List Byte) :
    (P.judgeHeader header).InOrder := by
  have flagged (set : ReportFlags → ReportFlags) (receiver : Receiver) :
      PortState.InOrder { P.record set with receiver := receiver } :=
    (h.record set).withReceiver ((PortState.record_breakReported set P).trans hb) receiver
  exact .ite (flagged ..) (.ite (flagged ..) (.ite (flagged ..) (h.withReceiver hb _)))

theorem PortState.InOrder.takeHeader (h : P.InOrder) (hb : P.breakReported = false) (bytes : List Byte) :
    (P.takeHeader bytes).InOrder := by
  unfold PortState.takeHeader
  cases P.receiver with
  | hunt => exact .ite (h.judgeHeader hb _) h
  | header gathered => exact .ite (h.judgeHeader hb _) h
  | payload header gathered => exact h
  | skip left => exact h

theorem PortState.InOrder.skipped (h : P.InOrder) : P.skipped.InOrder := by
  unfold PortState.skipped
  cases P.receiver with
  | skip left => exact h.toHunt
  | hunt => exact h
  | header gathered => exact h
  | payload header gathered => exact h

theorem PortState.InOrder.discardPayload (h : P.InOrder) (data : Bool) : (P.discardPayload data).InOrder :=
  PortState.InOrder.toHunt (.ite (h.record _).demand (h.record _))

theorem PortState.InOrder.abandon (h : P.InOrder) : P.abandon.InOrder := by
  unfold PortState.abandon
  cases P.receiver with
  | hunt => exact h
  | header gathered => exact (h.record _).toHunt
  | payload header gathered => exact h.discardPayload _
  | skip left => exact h.toHunt

theorem PortState.InOrder.takeBadPayload (h : P.InOrder) (ftype : FrameType) (bytes : List Byte) :
    (P.takeBadPayload ftype bytes).InOrder := .ite (h.discardPayload _) h

/-! #### Frames within a session -/

theorem PortState.InOrder.listen (h : P.InOrder) : P.listen.InOrder := by
  unfold PortState.listen
  split
  next hs =>
    have ha : P.Awake := hs.1
    exact { h with
      closed_silence := fun hc => absurd hc ha.ne_closed, dormant_silence := fun hd => absurd hd ha.ne_dormant }
  · exact h

theorem PortState.listen_session (P : PortState) : P.listen.session = P.session := by
  unfold PortState.listen
  split <;> rfl

/-- A valid frame wakes a DORMANT port (R171). -/
theorem PortState.awake_woken (hs : P.session ≠ .closed) :
    PortState.Awake { P with session := if P.session = .dormant then .up else P.session, heardNow := true } := by
  unfold PortState.Awake
  cases h : P.session with
  | closed => exact absurd h hs
  | up => exact .inl rfl
  | enteringDormant => exact .inr rfl
  | dormant => exact .inl rfl

theorem PortState.hearFrame_awake (hs : P.session ≠ .closed) : P.hearFrame.Awake := by
  have h := PortState.awake_woken hs
  unfold PortState.Awake PortState.hearFrame at *
  rwa [PortState.listen_session]

theorem PortState.InOrder.hearFrame (h : P.InOrder) (hs : P.session ≠ .closed) : P.hearFrame.InOrder :=
  PortState.InOrder.listen
    (PortState.inOrder_of_awake (PortState.awake_woken hs) (h.unbroken hs) h.places h.windowLow h.windowHigh h.windowFits)

theorem PortState.InOrder.hearAnnounce (h : P.InOrder) : P.hearAnnounce.InOrder := by
  unfold PortState.hearAnnounce
  split
  · exact h.toHunt
  next hs => exact h.toHunt.hearFrame hs

/-- A DATA frame is accepted in order: its requests need as many places (R141, R142). -/
theorem PortState.InOrder.accept (h : P.InOrder) (hs : P.session ≠ .closed) {requests : List Request}
    (hroom : P.placesUsed + requests.length ≤ 8) : (P.accept requests).InOrder := by
  refine PortState.inOrder_of_awake (.inl rfl) (h.unbroken hs) ?_ h.windowLow h.windowHigh h.windowFits
  have hfilter := List.length_filter_le (fun q : Request => !isOpen q.payload) requests
  unfold PortState.placesUsed PortState.accept at *
  dsimp only
  rw [List.filter_append, List.length_append]
  omega

theorem PortState.InOrder.judge (h : P.InOrder) (hs : P.session ≠ .closed) (seq : Byte) (payload : List Byte) :
    (P.judge seq payload).InOrder := by
  have flagged (set : ReportFlags → ReportFlags) : (P.record set).demand.InOrder := (h.record set).demand
  unfold PortState.judge
  split
  · split
    · exact h.accept hs h.places
    · split
      next hroom => exact h.accept hs hroom
      · exact flagged _
  · exact .ite h.demand (.ite (flagged _) (flagged _))

/-- An OPEN takes no place (R144, R161). -/
theorem PortState.placesUsed_acceptOpen {payload : List Byte} (ho : isOpen payload = true) (seq : Byte) (P : PortState) :
    (P.acceptOpen seq payload).placesUsed = P.placesUsed := by
  simp [PortState.placesUsed, PortState.acceptOpen, ho]

theorem PortState.InOrder.acceptOpen (h : P.InOrder) (hb : P.breakReported = false) (seq : Byte) {payload : List Byte}
    (ho : isOpen payload = true) : (P.acceptOpen seq payload).InOrder := by
  have hplaces := PortState.placesUsed_acceptOpen ho seq P
  by_cases hs : P.session = .closed
  · have hQ : P.acceptOpen seq payload = { P with accepted := P.accepted ++ [{ seq := seq, payload := payload }] } := by
      unfold PortState.acceptOpen
      rw [if_pos hs, ← hs]
    rw [hQ] at hplaces ⊢
    exact { h with
      places := hplaces ▸ h.places
      closed_places := fun hc => hplaces.trans (h.closed_places hc)
      dormant_accepted := fun hd => nomatch hs.symm.trans hd
      broken_accepted := fun hb' => nomatch hb.symm.trans hb' }
  · exact PortState.inOrder_of_awake (.inl (if_neg hs)) hb (hplaces ▸ h.places) h.windowLow h.windowHigh h.windowFits

/-! #### Acknowledgements, placing and dormancy -/

theorem PortState.InOrder.fallAsleep (h : P.InOrder) : P.fallAsleep.InOrder := by
  unfold PortState.fallAsleep
  split
  next hquiet =>
    obtain ⟨hs, hwindow, hbacklog, haccepted, -, -⟩ := (PortState.quiet_iff P).1 hquiet
    exact PortState.inOrder_of_session nofun (h.unbroken (by rw [hs]; exact nofun)) h.places h.windowLow h.windowHigh
      h.windowFits fun _ => ⟨hwindow, hbacklog, haccepted, rfl, rfl⟩
  · exact h

/-- An acknowledgement takes at least one frame from the window (R149). -/
theorem splitWindow_length {a : Byte} {window acked rest : List Slot} (h : splitWindow a window = some (acked, rest)) :
    rest.length < window.length := by
  induction window generalizing acked with
  | nil => cases h
  | cons w window ih =>
    unfold splitWindow at h
    split at h
    · cases h
      exact Nat.lt_succ_self _
    · obtain ⟨yz, hyz, he⟩ := Option.map_eq_some_iff.1 h
      cases he
      exact Nat.lt_succ_of_lt (ih hyz)

theorem PortState.InOrder.ackWindow (h : P.InOrder) {rest : List Slot} (hrest : rest.length < P.window.length) :
    (P.ackWindow rest).InOrder := by
  have ha := h.awake_of_window (List.ne_nil_of_length_pos (by omega))
  exact PortState.inOrder_of_awake ha (h.unbroken ha.ne_closed) h.places h.windowLow h.windowHigh
    (hrest.le.trans h.windowFits)

theorem PortState.InOrder.addRound (h : P.InOrder) : P.addRound.InOrder := .ite { h with } { h with }

theorem PortState.InOrder.place (h : P.InOrder) (ha : P.Awake) (hroom : P.window.length < P.params.window)
    (message : List Byte) (role : Role) : (P.place message role).InOrder := by
  refine PortState.inOrder_of_awake ha (h.unbroken ha.ne_closed) h.places h.windowLow h.windowHigh ?_
  unfold PortState.place
  rw [List.length_append]
  exact hroom

/-- The oldest reply gives its place back (R142, R181). -/
theorem PortState.InOrder.dropReply (h : P.InOrder) (ha : P.Awake) {q : Reply} {rest : List Reply}
    (hbacklog : P.backlog = q :: rest) : PortState.InOrder { P with backlog := rest } := by
  have hplaces := h.places
  refine PortState.inOrder_of_awake ha (h.unbroken ha.ne_closed) ?_ h.windowLow h.windowHigh h.windowFits
  unfold PortState.placesUsed at *
  rw [hbacklog, List.length_cons] at hplaces
  dsimp only
  omega

/-! #### The transmitter and the timers -/

theorem PortState.InOrder.ackDelayPasses (h : P.InOrder) : P.ackDelayPasses.InOrder := by
  unfold PortState.ackDelayPasses
  cases howed : P.ackOwed with
  | waiting left => exact { h with closed_ackOwed := fun hc => nomatch howed.symm.trans (h.closed_ackOwed hc) }
  | clear => exact h
  | due => exact h

theorem PortState.InOrder.beginAck (h : P.InOrder) : P.beginAck.InOrder :=
  PortState.InOrder.fallAsleep
    { h with closed_report := fun _ => rfl, closed_ackDemand := fun _ => rfl, closed_ackOwed := fun _ => rfl }

theorem map_eq_nil_of_eq_nil {α : Type} {l : List α} (h : l = []) (f : α → α) : l.map f = [] := by
  rw [h]
  rfl

theorem PortState.InOrder.beginData (h : P.InOrder) (w : Slot) : (P.beginData w).InOrder :=
  PortState.InOrder.fallAsleep
    { h with
      windowFits := by
        rw [List.length_map]
        exact h.windowFits
      closed_window := fun hc => map_eq_nil_of_eq_nil (h.closed_window hc) _
      dormant_window := fun hd => map_eq_nil_of_eq_nil (h.dormant_window hd) _
      closed_ackOwed := fun _ => rfl }

/-- A frame of the window sent to its end, and the two timers that may start then (R150, R184). -/
theorem PortState.endData_eq (q : Byte) (P : PortState) :
    P.endData q =
      { P with
        window := P.window.map (Slot.finish q)
        retransmit := if (P.window.head?.map Slot.seq) = some q then some P.params.retransmitTime else P.retransmit
        expiryNow := if (P.window.head?.map Slot.seq) = some q then .byTimer else P.expiryNow
        resetTimer :=
          if (P.window.any fun w => w.seq == q && w.role == .deviceReset && w.sent == .sending) ∧ P.resetPending ∧
            P.resetTimer = none then some (100 * ms) else P.resetTimer } := by
  unfold PortState.endData PortState.startResetTimer
  cases P.window.any fun w => w.seq == q && w.role == .deviceReset && w.sent == .sending with
  | false => simp
  | true => by_cases hp : P.resetPending ∧ P.resetTimer = none <;> simp [hp]

theorem PortState.InOrder.endData (h : P.InOrder) (q : Byte) : (P.endData q).InOrder := by
  have hhead (hw : P.window = []) : ¬(P.window.head?.map Slot.seq) = some q := by
    rw [hw]
    exact nofun
  rw [PortState.endData_eq]
  exact { h with
    windowFits := by
      rw [List.length_map]
      exact h.windowFits
    closed_window := fun hc => map_eq_nil_of_eq_nil (h.closed_window hc) _
    closed_retransmit := fun hc => (if_neg (hhead (h.closed_window hc))).trans (h.closed_retransmit hc)
    dormant_window := fun hd => map_eq_nil_of_eq_nil (h.dormant_window hd) _
    dormant_retransmit := fun hd => (if_neg (hhead (h.dormant_window hd))).trans (h.dormant_retransmit hd) }

theorem PortState.InOrder.endFrame (h : P.InOrder) : P.endFrame.InOrder := by
  unfold PortState.endFrame
  cases P.tx with
  | none => exact h
  | some x =>
    have hfree : PortState.InOrder { P with tx := none } := { h with }
    exact .ite (hfree.endData _) hfree

theorem PortState.InOrder.seeMark (h : P.InOrder) : P.seeMark.InOrder :=
  .ite { h with broken_session := nofun, broken_receiver := nofun, broken_accepted := nofun, broken_announce := nofun } h

theorem PortState.InOrder.tick (h : P.InOrder) : P.tick.InOrder :=
  { h with
    closed_ackOwed := fun hc => congrArg AckOwed.tick (h.closed_ackOwed hc)
    closed_retransmit := fun hc => congrArg (Option.map tickLeft) (h.closed_retransmit hc)
    closed_silence := fun hc => congrArg (Option.map tickLeft) (h.closed_silence hc)
    dormant_retransmit := fun hd => congrArg (Option.map tickLeft) (h.dormant_retransmit hd)
    dormant_silence := fun hd => congrArg (Option.map tickLeft) (h.dormant_silence hd)
    broken_announce := fun hb => congrArg Schedule.tick (h.broken_announce hb) }

/-! #### The end of a session and its beginning -/

/-- A port that enters CLOSED holds nothing, whatever it held; one whose break stands needs its ANNOUNCE suspended (R158). -/
theorem PortState.inOrder_closed {schedule : Schedule}
    (h : P.breakReported = true → P.receiver = .hunt ∧ schedule = .suspended) : (P.closed schedule).InOrder where
  places := Nat.zero_le 8
  windowLow := Nat.le_refl 1
  windowHigh := (by decide : 1 ≤ 4)
  windowFits := Nat.zero_le 1
  closed_places _ := rfl
  closed_window _ := rfl
  closed_backlog _ := rfl
  closed_retransmit _ := rfl
  closed_silence _ := rfl
  closed_report _ := rfl
  closed_ackOwed _ := rfl
  closed_ackDemand _ := rfl
  closed_closing _ := rfl
  closed_refusing _ := rfl
  closed_routeNotices _ := rfl
  closed_actionNotices _ := rfl
  closed_told _ := rfl
  dormant_window := nofun
  dormant_backlog := nofun
  dormant_accepted := nofun
  dormant_retransmit := nofun
  dormant_silence := nofun
  broken_session _ := rfl
  broken_receiver hb := (h hb).1
  broken_accepted _ := rfl
  broken_announce hb := (h hb).2

theorem PortState.InOrder.softReset (h : P.InOrder) : P.softReset.InOrder := by
  have hclosed : (P.closed P.announce.afterSoftReset).InOrder := PortState.inOrder_closed fun hb =>
    ⟨h.broken_receiver hb, by rw [h.broken_announce hb]; rfl⟩
  exact { hclosed with broken_receiver := fun _ => rfl }

/-- A CLOSED port begins a session: its one reply is OPENED (R162). -/
theorem PortState.InOrder.beginSession (h : P.InOrder) (hc : P.session = .closed) (hb : P.breakReported = false)
    (seq tag : Byte) {q : Params} (hlow : 1 ≤ q.window) (hhigh : q.window ≤ 4) (nextSeq : Seq) (actions : Vector Action 16) :
    (P.beginSession seq tag q nextSeq actions).InOrder := by
  have hplaces := h.closed_places hc
  refine PortState.InOrder.listen (PortState.inOrder_of_awake (.inl rfl) hb ?_ hlow hhigh ?_)
  · unfold PortState.placesUsed at *
    dsimp only
    rw [List.length_cons]
    omega
  · dsimp only
    rw [h.closed_window hc]
    exact Nat.zero_le _

/-- A CLOSED port comes UP with the refusal of OPEN alone in its window (R164). -/
theorem PortState.InOrder.refuseOpen (h : P.InOrder) (hc : P.session = .closed) (hb : P.breakReported = false)
    (seq tag : Byte) (result : Result) : (P.refuseOpen seq tag result).InOrder := by
  have hlength : P.window.length = 0 := List.length_eq_zero_iff.2 (h.closed_window hc)
  unfold PortState.refuseOpen
  refine PortState.InOrder.place ?_ (.inl rfl) ?_ _ _
  · exact PortState.inOrder_of_awake (.inl rfl) hb h.places (Nat.le_refl 1) (by decide : 1 ≤ 4) (hlength ▸ Nat.zero_le 1)
  · exact hlength ▸ Nat.one_pos

/-! #### Requests taken and answered -/

theorem PortState.placesUsed_popAccepted_le (P : PortState) : P.popAccepted.placesUsed ≤ P.placesUsed := by
  unfold PortState.placesUsed PortState.popAccepted
  exact Nat.add_le_add_left ((P.accepted.drop_sublist 1).filter _).length_le _

/-- A request other than an OPEN leaves its place to its reply (R142). -/
theorem PortState.placesUsed_popAccepted_lt {q : Request} {qs : List Request} (hq : P.accepted = q :: qs)
    (ho : isOpen q.payload = false) : P.popAccepted.placesUsed < P.placesUsed := by
  simp [PortState.placesUsed, PortState.popAccepted, hq, ho]

theorem PortState.InOrder.popAccepted (h : P.InOrder) : P.popAccepted.InOrder :=
  { h with
    places := P.placesUsed_popAccepted_le.trans h.places
    closed_places := fun hc => Nat.eq_zero_of_le_zero (h.closed_places hc ▸ P.placesUsed_popAccepted_le)
    dormant_accepted := fun hd => congrArg (List.drop 1) (h.dormant_accepted hd)
    broken_accepted := fun hb => congrArg (List.drop 1) (h.broken_accepted hb) }

theorem PortState.placesUsed_queueReply (role : Role) (message : List Byte) (P : PortState) :
    (P.queueReply role message).placesUsed = P.placesUsed + 1 := by
  unfold PortState.placesUsed PortState.queueReply
  rw [List.length_append, List.length_singleton, Nat.add_right_comm]

/-- A port that is awake, with a place left, takes one reply. -/
theorem PortState.InOrder.queueReply (h : P.InOrder) (ha : P.Awake) (hroom : P.placesUsed < 8) (role : Role)
    (message : List Byte) : (P.queueReply role message).InOrder :=
  PortState.inOrder_of_awake ha (h.unbroken ha.ne_closed)
    (by rw [PortState.placesUsed_queueReply]; exact hroom) h.windowLow h.windowHigh h.windowFits

theorem PortState.InOrder.beginClose (h : P.InOrder) (ha : P.Awake) (hroom : P.placesUsed < 8) (tag : Byte) :
    (P.beginClose tag).InOrder :=
  have hclosing : PortState.InOrder { P with closing := true, silence := none } :=
    { h with
      closed_closing := fun hc => absurd hc ha.ne_closed
      closed_silence := fun _ => rfl, dormant_silence := fun _ => rfl }
  hclosing.queueReply ha hroom ..

theorem PortState.InOrder.enterDormant (h : P.InOrder) (ha : P.Awake) (hroom : P.placesUsed < 8) (tag : Byte) :
    (P.enterDormant tag).InOrder :=
  have hentering : PortState.InOrder { P with session := .enteringDormant } :=
    PortState.inOrder_of_awake (.inr rfl) (h.unbroken ha.ne_closed) h.places h.windowLow h.windowHigh h.windowFits
  hentering.queueReply (.inr rfl) hroom ..

theorem PortState.InOrder.pendReset (h : P.InOrder) (ha : P.Awake) (hroom : P.placesUsed < 8) (tag : Byte) :
    (P.pendReset tag).InOrder :=
  have hpending : PortState.InOrder { P with resetPending := true } := { h with }
  hpending.queueReply ha hroom ..

/-! #### Notice flags and told marks -/

/-- No notice flag and no told mark is set (R156, R180). -/
structure PortState.Unflagged (P : PortState) : Prop where
  routeNotices : P.routeNotices = Vector.replicate 8 .none
  actionNotices : P.actionNotices = Vector.replicate 16 .none
  told : P.told = Vector.replicate 16 false

theorem PortState.InOrder.unflagged (h : P.InOrder) (hc : P.session = .closed) : P.Unflagged :=
  ⟨h.closed_routeNotices hc, h.closed_actionNotices hc, h.closed_told hc⟩

/-- A change of the notice flags and told marks alone, which sets none on a CLOSED port (R94, R120, R180). -/
structure PortState.Notified (P Q : PortState) : Prop where
  rest : { Q with routeNotices := P.routeNotices, actionNotices := P.actionNotices, told := P.told } = P
  unflagged : P.session = .closed → P.Unflagged → Q.Unflagged

end Sys2Proof.Machine

namespace Sys2Proof.Machine

variable {P Q R : PortState}

theorem PortState.Notified.refl (P : PortState) : P.Notified P := ⟨rfl, fun _ => id⟩

theorem PortState.Notified.session (h : P.Notified Q) : Q.session = P.session := by
  rw [← h.rest]

theorem PortState.Notified.trans (h : P.Notified Q) (h' : Q.Notified R) : P.Notified R := by
  have hrest : { R with routeNotices := P.routeNotices, actionNotices := P.actionNotices, told := P.told } = P := by
    rw [← h.rest, ← h'.rest]
  exact ⟨hrest, fun hc hn => h'.unflagged (h.session.trans hc) (h.unflagged hc hn)⟩

theorem PortState.Notified.inOrder (h : P.Notified Q) (hP : P.InOrder) : Q.InOrder := by
  have hnone : Q.session = .closed → Q.Unflagged := fun hc =>
    h.unflagged (h.session ▸ hc) (hP.unflagged (h.session ▸ hc))
  rw [← h.rest] at hP
  exact { hP with
    closed_routeNotices := fun hc => (hnone hc).routeNotices
    closed_actionNotices := fun hc => (hnone hc).actionNotices
    closed_told := fun hc => (hnone hc).told }

theorem PortState.Notified.awake (h : P.Notified Q) (ha : P.Awake) : Q.Awake := by
  unfold PortState.Awake
  rw [h.session]
  exact ha

theorem PortState.Notified.placesUsed (h : P.Notified Q) : Q.placesUsed = P.placesUsed := by
  rw [← h.rest]
  rfl

theorem replicate_set {α : Type} {n : Nat} (a : α) (i : Fin n) : (Vector.replicate n a).set i.val a = Vector.replicate n a := by
  ext j hj
  simp

/-- A route notice flag is cleared, or set while the port has a session. -/
theorem PortState.Notified.setRouteNotice (r : RouteNo) (notice : RouteNotice) (P : PortState)
    (h : P.session = .closed → notice = .none) :
    P.Notified { P with routeNotices := P.routeNotices.set r.val notice } := by
  refine ⟨rfl, fun hc hn => ⟨?_, hn.actionNotices, hn.told⟩⟩
  dsimp only
  rw [h hc, hn.routeNotices, replicate_set]

theorem PortState.Notified.loseRoute (r : RouteNo) (P : PortState) : P.Notified (P.loseRoute r) :=
  .setRouteNotice r _ P fun hc => if_pos hc

theorem PortState.Notified.clearRouteNotice (r : RouteNo) (P : PortState) : P.Notified (P.clearRouteNotice r) :=
  .setRouteNotice r _ P fun _ => rfl

theorem PortState.Notified.hearGrace (n : ActionNo) (P : PortState) : P.Notified (P.hearGrace n) := by
  refine ⟨rfl, fun hc hn => ⟨hn.routeNotices, (if_pos hc).trans hn.actionNotices, ?_⟩⟩
  unfold PortState.hearGrace
  rw [hn.told, replicate_set]

/-- The end of a grace flags a port that was told of it, or takes a flag back (R121): a port without marks hears nothing. -/
theorem PortState.Notified.hearGraceEnd (n : ActionNo) (P : PortState) : P.Notified (P.hearGraceEnd n) := by
  have hnothing (hn : P.Unflagged) : P.hearGraceEnd n = P :=
    PortState.hearGraceEnd_of_unaware (by simp [hn.told]) (by simp [hn.actionNotices])
  refine ⟨?_, fun _ hn => (hnothing hn).symm ▸ hn⟩
  unfold PortState.hearGraceEnd
  split
  · rfl
  · split <;> rfl

/-! ### What changes of the part keep -/

variable {s t u : State}

/-- A change of the part that leaves the ports beside their notice flags and told marks. -/
structure NotifiesPorts (s t : State) : Prop where
  port : ∀ p, (s.port p).Notified (t.port p)

theorem NotifiesPorts.refl (s : State) : NotifiesPorts s s := ⟨fun p => .refl (s.port p)⟩

theorem NotifiesPorts.trans (h : NotifiesPorts s t) (h' : NotifiesPorts t u) : NotifiesPorts s u :=
  ⟨fun p => (h.port p).trans (h'.port p)⟩

/-- A change of the other blocks alone. -/
theorem NotifiesPorts.of_eq (h : t.ports = s.ports) : NotifiesPorts s t := by
  refine ⟨fun p => ?_⟩
  unfold State.port
  rw [h]
  exact .refl _

theorem NotifiesPorts.updPort {p : Port} {f : PortState → PortState} (h : (s.port p).Notified (f (s.port p))) :
    NotifiesPorts s (s.updPort p f) := by
  refine ⟨fun q => ?_⟩
  rw [State.port_updPort]
  split
  next e =>
    subst e
    exact h
  next => exact .refl _

theorem NotifiesPorts.updRoute (r : RouteNo) (f : Route → Route) (s : State) : NotifiesPorts s (s.updRoute r f) := .of_eq rfl

theorem NotifiesPorts.updAction (n : ActionNo) (f : Action → Action) (s : State) : NotifiesPorts s (s.updAction n f) :=
  .of_eq rfl

theorem notifiesPorts_handOnKeeps (s : State) : HandOnKeeps (NotifiesPorts s) where
  held _ _ h := h.trans (.of_eq rfl)
  answer _ _ _ h := h.trans (.of_eq rfl)
  offer o r t h := ⟨fun p => (offer_port o r t p).symm ▸ h.port p⟩
  fired _ _ _ h := h.trans (.of_eq rfl)
  grace n t h := ⟨fun p => (h.port p).trans (enterGrace_port n t p ▸ .hearGrace n (t.port p))⟩

theorem NotifiesPorts.handOnHeld (s : State) : NotifiesPorts s (handOnHeld s) :=
  (notifiesPorts_handOnKeeps s).handOnHeld s (.refl s)

theorem NotifiesPorts.raise (i : SourceNo) (detail : Half) (s : State) : NotifiesPorts s (s.raise i detail) :=
  (notifiesPorts_handOnKeeps s).raise i detail s (.refl s)

theorem NotifiesPorts.fire (n : ActionNo) (cause : FireCause) (s : State) : NotifiesPorts s (fire n cause s) :=
  (notifiesPorts_handOnKeeps s).fire n cause s (.refl s)

theorem NotifiesPorts.closeAll (out : CloseOutcome) (time : Time) (xs : List Rec) (s : State) :
    NotifiesPorts s (s.closeAll out time xs) := by
  rw [closeAll_eq]
  exact .of_eq rfl

theorem NotifiesPorts.acceptChange (i : LineNo) (s : State) : NotifiesPorts s (acceptChange i s) := by
  have k := notifiesPorts_handOnKeeps s
  unfold Machine.acceptChange
  split
  · exact k.handOnHeld _ (k.sourceSeesChange _ _ _ _ (.of_eq rfl))
  · exact .refl s

theorem NotifiesPorts.settleLine (i : LineNo) (s : State) : NotifiesPorts s (settleLine i s) := by
  have k := notifiesPorts_handOnKeeps s
  unfold Machine.settleLine
  split
  · exact k.handOnHeld _ (k.sourceSeesSettle _ _ _ _ (.of_eq rfl))
  · exact .refl s

theorem NotifiesPorts.holdoffExpires (i : SourceNo) (s : State) : NotifiesPorts s (holdoffExpires i s) := by
  have k := notifiesPorts_handOnKeeps s
  unfold Machine.holdoffExpires
  cases (s.source i).state with
  | holdoff left => exact k.handOnHeld _ (k.occur _ _ _ _ (.refl s))
  | off => exact .refl s
  | watch => exact .refl s
  | raised openRecord => exact .refl s

theorem NotifiesPorts.endGrace (n : ActionNo) (outcome : GraceOutcome) (endedBy : Option Port) (s : State) :
    NotifiesPorts s (endGrace n outcome endedBy s) :=
  (NotifiesPorts.updAction n _ s).trans ((NotifiesPorts.updPort (p := .A) (.hearGraceEnd n _)).trans
    (.updPort (p := .B) (.hearGraceEnd n _)))

theorem NotifiesPorts.graceExpires (n : ActionNo) (s : State) : NotifiesPorts s (graceExpires n s) := by
  unfold Machine.graceExpires
  cases (s.action n).state with
  | grace left => exact (NotifiesPorts.endGrace ..).trans ((NotifiesPorts.fire ..).trans (.handOnHeld _))
  | idle => exact .refl s
  | fired cause pulse => exact .refl s

theorem NotifiesPorts.pulseExpires (n : ActionNo) (s : State) : NotifiesPorts s (pulseExpires n s) := by
  unfold Machine.pulseExpires
  split
  · exact .of_eq rfl
  all_goals exact .refl s

theorem NotifiesPorts.setOutput (p : Port) (n : ActionNo) (s : State) : NotifiesPorts s (setOutput p n s) := by
  unfold Machine.setOutput
  cases (s.action n).state with
  | idle => exact .fire ..
  | grace left => exact (NotifiesPorts.endGrace ..).trans (.fire ..)
  | fired cause pulse => exact .refl s

theorem NotifiesPorts.serviceTimerExpires (r : RouteNo) (s : State) : NotifiesPorts s (serviceTimerExpires r s) := by
  unfold Machine.serviceTimerExpires
  split
  · split
    · exact .of_eq rfl
    · exact (NotifiesPorts.updRoute r Route.stall s).trans ((NotifiesPorts.raise ..).trans (.handOnHeld _))
  · exact .refl s

theorem NotifiesPorts.configureSource (i : SourceNo) (cfg : SourceConfig) (s : State) :
    NotifiesPorts s (configureSource i cfg s) := by
  unfold Machine.configureSource restartLine
  split <;> exact .of_eq rfl

theorem NotifiesPorts.configureRoute (r : RouteNo) (cfg : RouteConfig) (s : State) :
    NotifiesPorts s (configureRoute r cfg s) := (NotifiesPorts.updRoute ..).trans (.closeAll ..)

theorem NotifiesPorts.completeBatch (r : RouteNo) (k : Nat) (b : Batch) (s : State) :
    NotifiesPorts s (completeBatch r k b s) := (NotifiesPorts.updRoute ..).trans (.closeAll ..)

theorem NotifiesPorts.releaseRoute (p : Port) (r : RouteNo) (s : State) : NotifiesPorts s (releaseRoute p r s) :=
  (NotifiesPorts.updRoute ..).trans (.updPort (p := p) (.clearRouteNotice r _))

theorem NotifiesPorts.claimChanges (p : Port) (r : RouteNo) (s : State) : NotifiesPorts s (claimChanges p r s) := by
  have hgiven : NotifiesPorts s (s.updRoute r (Route.giveTo (some p))) := .of_eq rfl
  refine NotifiesPorts.trans ?_ (.updPort (.clearRouteNotice r _))
  unfold tellOldOwner
  cases (s.route r).owner with
  | none => exact hgiven
  | some q => exact hgiven.trans (.updPort (.loseRoute r _))

end Sys2Proof.Machine

namespace Sys2Proof.Machine

variable {s t u : State}

/-! ### Sessions, frames and the service cycle -/

theorem NotifiesPorts.portsInOrder (h : NotifiesPorts s t) (hs : s.PortsInOrder) : t.PortsInOrder :=
  fun p => (h.port p).inOrder (hs p)

theorem State.PortsInOrder.of_eq (h : s.PortsInOrder) (hports : t.ports = s.ports) : t.PortsInOrder :=
  (NotifiesPorts.of_eq hports).portsInOrder h

theorem State.PortsInOrder.updRoute (h : s.PortsInOrder) (r : RouteNo) (f : Route → Route) : (s.updRoute r f).PortsInOrder :=
  h.of_eq rfl

/-- The port that is not `p` is in order. -/
def State.OtherInOrder (p : Port) (s : State) : Prop := (s.port (otherPort p)).InOrder

theorem eq_otherPort_of_ne {p q : Port} (h : q ≠ p) : q = otherPort p := by
  cases p with
  | A =>
    cases q with
    | A => exact absurd rfl h
    | B => rfl
  | B =>
    cases q with
    | A => rfl
    | B => exact absurd rfl h

theorem State.OtherInOrder.portsInOrder {p : Port} (h : s.OtherInOrder p) (hp : (s.port p).InOrder) : s.PortsInOrder := by
  intro q
  by_cases e : q = p
  · exact e ▸ hp
  · exact eq_otherPort_of_ne e ▸ h

theorem State.OtherInOrder.updPort {p : Port} (h : s.OtherInOrder p) (f : PortState → PortState) :
    (s.updPort p f).OtherInOrder p := by
  unfold State.OtherInOrder
  rw [State.port_updPort_ne f s (otherPort_ne p).symm]
  exact h

theorem State.PortsInOrder.port (h : s.PortsInOrder) {p : Port} {f : PortState → PortState}
    (hf : (f (s.port p)).InOrder) : (s.updPort p f).PortsInOrder := by
  have hother : s.OtherInOrder p := h _
  exact (hother.updPort f).portsInOrder (by rwa [State.port_updPort_same])

/-- The port may enter CLOSED with this schedule: where its break stands, the receiver is in HUNT and ANNOUNCE is suspended
(R155, R158). -/
def PortState.MayClose (schedule : Schedule) (P : PortState) : Prop :=
  P.breakReported = true → P.receiver = .hunt ∧ schedule = .suspended

theorem PortState.InOrder.mayClose {P : PortState} (h : P.InOrder) (hs : P.session ≠ .closed) (schedule : Schedule) :
    P.MayClose schedule := fun hb => absurd (h.broken_session hb) hs

theorem State.PortsInOrder.softReset (h : s.PortsInOrder) : (softReset s).PortsInOrder := by
  intro p
  rw [softReset_port]
  exact (h p).softReset

theorem State.PortsInOrder.resetIfPending (h : s.PortsInOrder) (p : Port) : (resetIfPending p s).PortsInOrder :=
  ite_keeps h.softReset h

theorem State.OtherInOrder.endOrderly {p : Port} (h : s.OtherInOrder p) {schedule : Schedule}
    (hp : (s.port p).MayClose schedule) : (endOrderly schedule p s).PortsInOrder := by
  have hclosed : (s.updPort p (PortState.closed schedule)).PortsInOrder :=
    (h.updPort _).portsInOrder (by rw [State.port_updPort_same]; exact PortState.inOrder_closed hp)
  have hreturned : (returnBatches p (s.updPort p (PortState.closed schedule))).PortsInOrder := hclosed.of_eq rfl
  exact hreturned.resetIfPending p

/-- An orderly end of a session (R166). -/
theorem State.PortsInOrder.orderlyEnd (h : s.PortsInOrder) {p : Port} (hp : (s.port p).session ≠ .closed) :
    (orderlyEnd p s).PortsInOrder :=
  State.OtherInOrder.endOrderly (h _) ((h p).mayClose hp .due)

/-- Routes fail over to a port that is UP alone, and flag it (R106, R107). -/
theorem afterFailover_notifiesOther (p : Port) (schedule : Schedule) (s : State) :
    (s.port (otherPort p)).Notified ((afterFailover p schedule s).port (otherPort p)) := by
  refine ⟨?_, fun hc hn => ?_⟩
  · have hrest := afterFailover_port_other p schedule s
    rw [← hrest]
  · have hnone : movedRoutes p s = [] := List.eq_nil_iff_forall_not_mem.2 fun r hr =>
      nomatch hc.symm.trans (mem_movedRoutes.1 hr).2.2
    unfold afterFailover
    rw [hnone, List.foldl_nil, returnBatches_closed_port_other]
    exact hn

theorem State.OtherInOrder.sessionLoss {p : Port} (h : s.OtherInOrder p) {schedule : Schedule}
    (hp : (s.port p).MayClose schedule) (cause : LossCause) : (sessionLoss p cause schedule s).PortsInOrder := by
  have hother : (afterFailover p schedule s).OtherInOrder p := (afterFailover_notifiesOther p schedule s).inOrder h
  have hmoved : (afterFailover p schedule s).PortsInOrder :=
    hother.portsInOrder (by rw [afterFailover_port_same]; exact PortState.inOrder_closed hp)
  have hlost : (loseSession p cause schedule s).PortsInOrder := by
    rw [loseSession_eq]
    exact hmoved.of_eq rfl
  exact ((NotifiesPorts.handOnHeld _).portsInOrder hlost).resetIfPending p

theorem State.PortsInOrder.sessionLoss (h : s.PortsInOrder) {p : Port} (hp : (s.port p).session ≠ .closed)
    (cause : LossCause) (schedule : Schedule) : (sessionLoss p cause schedule s).PortsInOrder :=
  State.OtherInOrder.sessionLoss (h _) ((h p).mayClose hp schedule) cause

theorem State.PortsInOrder.callRound (h : s.PortsInOrder) {p : Port} (hp : (s.port p).session ≠ .closed) :
    (callRound p s).PortsInOrder :=
  ite_keeps (h.port (h p).addRound) (ite_keeps (h.orderlyEnd hp) (h.sessionLoss hp .retryLimit .due))

theorem State.PortsInOrder.retransmitExpires (h : s.PortsInOrder) (p : Port) : (retransmitExpires p s).PortsInOrder := by
  unfold Machine.retransmitExpires
  split
  next hexpiry =>
    have hp : (s.port p).session ≠ .closed := ((h p).awake_of_window hexpiry.2).ne_closed
    have hstopped : (s.updPort p fun P => { P with retransmit := none, expiryNow := .byTimer }).PortsInOrder :=
      h.port { h p with closed_retransmit := fun _ => rfl, dormant_retransmit := fun _ => rfl }
    exact hstopped.callRound (by rw [State.port_updPort_same]; exact hp)
  · exact h

/-- A break ends what the port was in, and leaves it CLOSED with ANNOUNCE suspended (R155, R158). -/
theorem State.PortsInOrder.linkBreak (h : s.PortsInOrder) (p : Port) :
    (breakSession p (s.updPort p PortState.seeBreak)).PortsInOrder := by
  have hother : (s.updPort p PortState.seeBreak).OtherInOrder p := State.OtherInOrder.updPort (h _) _
  have hclose : ((s.updPort p PortState.seeBreak).port p).MayClose .suspended := by
    rw [State.port_updPort_same]
    exact fun _ => ⟨rfl, rfl⟩
  unfold breakSession
  split
  · exact hother.sessionLoss hclose .linkBreak
  · split
    · exact (hother.updPort _).portsInOrder (by rw [State.port_updPort_same]; exact PortState.inOrder_closed hclose)
    · exact hother.endOrderly hclose

theorem State.PortsInOrder.reportAcked (h : s.PortsInOrder) (p : Port) (w : Slot) : (reportAcked p s w).PortsInOrder := by
  unfold Machine.reportAcked
  cases w.role with
  | plain => exact h
  | close =>
    dsimp only
    split
    next hc => exact h.orderlyEnd hc.1
    · exact h
  | refusedOpen =>
    dsimp only
    split
    next hr => exact h.orderlyEnd fun hc => nomatch hr.symm.trans ((h p).closed_refusing hc)
    · exact h
  | deviceReset => exact h.resetIfPending p
  | notify r tag => exact h.of_eq rfl

theorem State.PortsInOrder.applyAck (h : s.PortsInOrder) (p : Port) (a : Byte) : (applyAck p a s).PortsInOrder := by
  have hacked : ∀ (acked : List Slot) (u : State), u.PortsInOrder →
      (acked.foldl (Machine.reportAcked p) u).PortsInOrder := by
    intro acked
    induction acked with
    | nil => exact fun u hu => hu
    | cons w acked ih => exact fun u hu => ih _ (hu.reportAcked p w)
  unfold Machine.applyAck
  split
  · exact h
  next acked rest hsplit =>
    have hreported := hacked acked _ (h.port ((h p).ackWindow (splitWindow_length hsplit)))
    exact hreported.port (hreported p).fallAsleep

theorem State.PortsInOrder.dataInSession (h : s.PortsInOrder) {p : Port} (hp : (s.port p).Awake) (seq info : Byte)
    (payload : List Byte) : (dataInSession p seq info payload s).PortsInOrder := by
  unfold Machine.dataInSession
  split
  next hopen =>
    split
    · exact (h.port (h p).demand).applyAck p info
    · exact h.port ((h p).acceptOpen ((h p).unbroken hp.ne_closed) seq hopen)
  · exact (h.port ((h p).judge hp.ne_closed seq payload)).applyAck p info

/-- A valid frame is heard in HUNT (R138). -/
theorem State.PortsInOrder.heard (h : s.PortsInOrder) {p : Port} (hp : (s.port p).session ≠ .closed) :
    ((s.updPort p PortState.toHunt).updPort p PortState.hearFrame).PortsInOrder ∧
      (((s.updPort p PortState.toHunt).updPort p PortState.hearFrame).port p).Awake := by
  rw [State.updPort_updPort, State.port_updPort_same]
  exact ⟨h.port ((h p).toHunt.hearFrame hp), PortState.hearFrame_awake hp⟩

theorem State.PortsInOrder.dataFrame (h : s.PortsInOrder) {p : Port} (hb : (s.port p).breakReported = false)
    (seq info : Byte) (payload : List Byte) : (dataFrame p seq info payload s).PortsInOrder := by
  have hhunt := h.port (h p).toHunt
  unfold Machine.dataFrame
  dsimp only
  split
  · split
    next hopen => exact hhunt.port ((hhunt p).acceptOpen (by rw [State.port_updPort_same]; exact hb) seq hopen)
    · exact hhunt
  next hs =>
    obtain ⟨hheard, hawake⟩ := h.heard hs
    exact hheard.dataInSession hawake seq info payload

theorem State.PortsInOrder.ackInSession (h : s.PortsInOrder) (p : Port) (seq info : Byte) :
    (ackInSession p seq info s).PortsInOrder := by
  have hack := h.applyAck p seq
  unfold Machine.ackInSession
  dsimp only
  split
  next hcalls =>
    have hwindow : ((Machine.applyAck p seq s).port p).window ≠ [] := by simp_all
    have hjoined := hack.port (p := p) (f := PortState.joinExpiry (s.port p).mayExpire) { hack p with }
    exact hjoined.callRound (by rw [State.port_updPort_same]; exact ((hack p).awake_of_window hwindow).ne_closed)
  · exact hack

theorem State.PortsInOrder.ackFrame (h : s.PortsInOrder) (p : Port) (seq info : Byte) :
    (ackFrame p seq info s).PortsInOrder := by
  unfold Machine.ackFrame
  dsimp only
  split
  · exact h.port (h p).toHunt
  next hs => exact (h.heard hs).1.ackInSession p seq info

/-! #### The scheduler's choice -/

/-- The scheduler chooses for a port that is awake, with room in its window (R148, R181). -/
theorem State.choice_room {p : Port} {c : Choice} (h : s.choice p = some c) :
    (s.port p).Awake ∧ (s.port p).window.length < (s.port p).params.window := by
  unfold State.choice at h
  dsimp only at h
  split at h
  next hroom => exact ⟨hroom.2, hroom.1⟩
  · cases h

/-- The reply that the scheduler chooses is the oldest (R181). -/
theorem State.choice_reply {p : Port} {q : Reply} {rest : List Reply} (h : s.choice p = some (.reply q rest)) :
    (s.port p).backlog = q :: rest := by
  unfold State.choice at h
  dsimp only at h
  split at h
  · split at h
    next hbacklog =>
      cases h
      exact hbacklog
    · split at h
      · split at h
        · cases h
        · cases h
        · obtain ⟨r, -, hr⟩ := Option.map_eq_some_iff.1 h
          split at hr <;> cases hr
      · cases h
  · cases h

theorem State.PortsInOrder.placeReply (h : s.PortsInOrder) {p : Port} {q : Reply} {rest : List Reply}
    (hchoice : s.choice p = some (.reply q rest)) : (placeReply p q rest s).PortsInOrder := by
  obtain ⟨hawake, hroom⟩ := State.choice_room hchoice
  have hdropped := (h p).dropReply hawake (State.choice_reply hchoice)
  exact h.port (hdropped.place hawake hroom q.message q.role).fallAsleep

/-- A notice joins the window of a port that takes the notice's flag back (R180). -/
theorem State.PortsInOrder.placeNotice (h : s.PortsInOrder) {p : Port} {c : Choice} (hchoice : s.choice p = some c)
    {f : PortState → PortState} (hf : (s.port p).Notified (f (s.port p))) (message : List Byte) (role : Role) :
    (s.updPort p fun P => PortState.place message role (f P)).PortsInOrder := by
  obtain ⟨hawake, hroom⟩ := State.choice_room hchoice
  refine h.port ((hf.inOrder (h p)).place (hf.awake hawake) ?_ message role)
  rw [← hf.rest] at hroom
  exact hroom

theorem PortState.Notified.of_session {P Q : PortState} (hs : P.session ≠ .closed)
    (h : { Q with routeNotices := P.routeNotices, actionNotices := P.actionNotices, told := P.told } = P) : P.Notified Q :=
  ⟨h, fun hc => absurd hc hs⟩

theorem State.PortsInOrder.placeNotify (h : s.PortsInOrder) {p : Port} (hawake : (s.port p).Awake)
    (hroom : (s.port p).window.length < (s.port p).params.window) (r : RouteNo) (again : Bool) :
    (placeNotify p r again s).PortsInOrder := by
  unfold Machine.placeNotify
  split
  · exact h
  · exact h.port ((h p).place hawake hroom _ _)

theorem State.PortsInOrder.formBatch (h : s.PortsInOrder) {p : Port} {c : Choice} (hchoice : s.choice p = some c)
    (r : RouteNo) : (formBatch p r s).PortsInOrder := by
  obtain ⟨hawake, hroom⟩ := State.choice_room hchoice
  exact (h.updRoute r _).placeNotify hawake hroom r false

theorem State.PortsInOrder.reofferBatch (h : s.PortsInOrder) {p : Port} {c : Choice} (hchoice : s.choice p = some c)
    (r : RouteNo) : (reofferBatch p r s).PortsInOrder := by
  obtain ⟨hawake, hroom⟩ := State.choice_room hchoice
  exact (h.updRoute r _).placeNotify hawake hroom r true

theorem State.PortsInOrder.beginAnnounce (h : s.PortsInOrder) {p : Port} (hmay : (s.port p).mayAnnounce = true) :
    (beginAnnounce p s).PortsInOrder := by
  have hdue : (s.port p).announce.mayFallDue = true := by
    simp only [PortState.mayAnnounce, Bool.and_eq_true] at hmay
    exact hmay.1.2
  refine h.port { h p with broken_announce := fun hb => ?_ }
  rw [(h p).broken_announce hb] at hdue
  cases hdue

theorem State.PortsInOrder.silenceExpires (h : s.PortsInOrder) {p : Port} (hsilence : (s.port p).silence.isSome = true) :
    (Machine.sessionLoss p .silence .due s).PortsInOrder := by
  refine h.sessionLoss (fun hc => ?_) .silence .due
  rw [(h p).closed_silence hc] at hsilence
  cases hsilence

end Sys2Proof.Machine

namespace Sys2Proof.Machine

variable {s t u : State} {p : Port}

/-! ### Requests -/

/-- The ports are in order, and port `p` has a place for a reply (R142, R179). -/
structure State.ReadyFor (p : Port) (s : State) : Prop where
  inOrder : s.PortsInOrder
  awake : (s.port p).Awake
  room : (s.port p).placesUsed < 8

theorem State.ReadyFor.notified (h : s.ReadyFor p) (ht : NotifiesPorts s t) : t.ReadyFor p :=
  ⟨ht.portsInOrder h.inOrder, (ht.port p).awake h.awake, (ht.port p).placesUsed ▸ h.room⟩

/-- A request other than an OPEN, once taken, has a place for its reply (R142, R178). -/
theorem State.PortsInOrder.takeRequest (h : s.PortsInOrder) {code : Byte} {rest : List Byte} (hcode : code ≠ openCode)
    (hu : takeRequest p code rest s = some u) : u.ReadyFor p := by
  unfold Machine.takeRequest at hu
  split at hu
  next q qs haccepted =>
    split at hu
    next htakes =>
      obtain ⟨hsession, hpayload⟩ := htakes
      have hopen : isOpen q.payload = false := by
        rw [hpayload]
        simpa [isOpen] using hcode
      have hlt := PortState.placesUsed_popAccepted_lt haccepted hopen
      cases hu
      refine ⟨h.port (h p).popAccepted, ?_, ?_⟩ <;> rw [State.port_updPort_same]
      · exact PortState.awake_of_ne hsession fun hd => nomatch haccepted.symm.trans ((h p).dormant_accepted hd)
      · exact hlt.trans_le (h p).places
    · cases hu
  · split at hu
    next hup =>
      cases hu
      exact ⟨h, .inl hup.1, hup.2⟩
    · cases hu

theorem State.ReadyFor.answerWith (h : s.ReadyFor p) {code tag : Byte} {result : Result} {fields : List Byte} :
    (answerWith p code tag result fields s).PortsInOrder :=
  h.inOrder.port ((h.inOrder p).queueReply h.awake h.room _ _)

theorem State.ReadyFor.answerOk (h : s.ReadyFor p) {code tag : Byte} {fields : List Byte} :
    (answerOk p code tag fields s).PortsInOrder := h.answerWith

theorem State.ReadyFor.refuse (h : s.ReadyFor p) {code tag : Byte} {result : Result} :
    (refuse p code tag result s).PortsInOrder := h.answerWith

theorem State.PortsInOrder.handOnHeld (h : s.PortsInOrder) : (handOnHeld s).PortsInOrder :=
  (NotifiesPorts.handOnHeld s).portsInOrder h

theorem State.PortsInOrder.configChanged (h : s.PortsInOrder) {code : Byte} :
    (Machine.handOnHeld (configChanged p code s)).PortsInOrder :=
  ((NotifiesPorts.raise ..).trans (.handOnHeld _)).portsInOrder h

theorem State.ReadyFor.checked (h : s.ReadyFor p) {α : Type} {code tag : Byte} {value : Except Result α}
    {act : α → State → State} (hact : ∀ v, (act v s).PortsInOrder) : (checked p code tag value act s).PortsInOrder := by
  cases value with
  | error r => exact h.refuse
  | ok v => exact hact v

/-! #### OPEN, CLOSE, DORMANT, DEVICE-RESET, SET-TIME -/

theorem State.PortsInOrder.takeOpen (h : s.PortsInOrder) {seq : Byte} {rest : List Byte}
    (hu : takeOpen p seq rest s = some u) : u.PortsInOrder ∧ (u.port p).breakReported = false := by
  unfold Machine.takeOpen at hu
  split at hu
  next q qs haccepted =>
    split at hu
    · cases hu
      refine ⟨h.port (h p).popAccepted, ?_⟩
      rw [State.port_updPort_same]
      exact Bool.eq_false_iff.2 fun hb => nomatch haccepted.symm.trans ((h p).broken_accepted hb)
    · cases hu
  · split at hu
    · cases hu
    next hb =>
      cases hu
      exact ⟨h, Bool.eq_false_iff.2 fun hbreak => hb (.inl hbreak)⟩

theorem resetIfPending_session {s : State} (h : (s.port p).session = .closed) :
    ((resetIfPending p s).port p).session = .closed := by
  unfold resetIfPending
  split
  · rw [softReset_port]
    rfl
  · exact h

theorem resetIfPending_breakReported (s : State) :
    ((resetIfPending p s).port p).breakReported = (s.port p).breakReported := by
  unfold resetIfPending
  split
  · rw [softReset_port]
    rfl
  · rfl

theorem returnBatches_port (q p : Port) (s : State) : (returnBatches p s).port q = s.port q := rfl

/-- After the session that an OPEN finds the port is CLOSED (R165). -/
theorem State.PortsInOrder.endBeforeOpen (h : s.PortsInOrder) (hb : (s.port p).breakReported = false) :
    (endBeforeOpen p s).PortsInOrder ∧ ((endBeforeOpen p s).port p).session = .closed ∧
      ((endBeforeOpen p s).port p).breakReported = false := by
  unfold Machine.endBeforeOpen
  split
  next hc => exact ⟨h, hc, hb⟩
  next hs =>
    refine ⟨h.orderlyEnd hs, resetIfPending_session ?_, (resetIfPending_breakReported _).trans ?_⟩ <;>
      rw [returnBatches_port, State.port_updPort_same]
    · rfl
    · exact hb

/-- OPEN lets through a window of 1 to 4 alone (R162). -/
theorem readOpen_window {fields : List Byte} {q : Params} (h : readOpen fields = .ok q) : 1 ≤ q.window ∧ q.window ≤ 4 := by
  unfold readOpen at h
  split at h
  next m0 m1 window silence retransmit =>
    unfold readParams at h
    dsimp only at h
    split at h
    · cases h
    · obtain ⟨_, hwindow, h⟩ := Result.bind_eq_ok h
      obtain ⟨_, -, h⟩ := Result.bind_eq_ok h
      cases h
      exact readRange_within hwindow
  · cases h

theorem State.PortsInOrder.openTaken (h : s.PortsInOrder) (hb : (s.port p).breakReported = false) (seq : Byte)
    (rest : List Byte) : (openTaken p seq rest s).PortsInOrder := by
  obtain ⟨hend, hc, hunbroken⟩ := h.endBeforeOpen hb
  cases rest with
  | nil => exact hend.port ((hend p).refuseOpen hc hunbroken ..)
  | cons tag fields =>
    change (openWith p seq tag fields (Machine.endBeforeOpen p s)).PortsInOrder
    unfold openWith
    cases hread : readOpen fields with
    | ok q =>
      obtain ⟨hlow, hhigh⟩ := readOpen_window hread
      exact hend.port ((hend p).beginSession hc hunbroken seq tag hlow hhigh _ _)
    | error r => exact hend.port ((hend p).refuseOpen hc hunbroken ..)

theorem State.ReadyFor.closeWith (h : s.ReadyFor p) (tag : Byte) (fields : List Byte) :
    (closeWith p tag fields s).PortsInOrder := by
  cases fields with
  | nil => exact h.inOrder.port ((h.inOrder p).beginClose h.awake h.room tag)
  | cons field fields => exact h.refuse

theorem State.ReadyFor.dormantWith (h : s.ReadyFor p) (tag : Byte) (fields : List Byte) :
    (dormantWith p tag fields s).PortsInOrder := by
  cases fields with
  | nil => exact ite_keeps h.refuse (h.inOrder.port ((h.inOrder p).enterDormant h.awake h.room tag))
  | cons field fields => exact h.refuse

theorem State.ReadyFor.deviceResetWith (h : s.ReadyFor p) (tag : Byte) (fields : List Byte) :
    (deviceResetWith p tag fields s).PortsInOrder := by
  cases fields with
  | nil => exact h.inOrder.port ((h.inOrder p).pendReset h.awake h.room tag)
  | cons field fields => exact h.refuse

theorem State.ReadyFor.setTimeWith (h : s.ReadyFor p) (tag : Byte) (fields : List Byte) :
    (setTimeWith p tag fields s).PortsInOrder := by
  unfold Machine.setTimeWith
  split
  · have hanswer := h.answerOk (code := setTimeCode) (tag := tag) (fields := leBytes 6 s.timebase.toNat)
    refine State.PortsInOrder.configChanged ?_
    exact hanswer.of_eq rfl
  · exact h.refuse

/-! #### Requests on sources, routes and actions -/

theorem State.ReadyFor.sourceSetWith (h : s.ReadyFor p) (tag : Byte) (fields : List Byte) :
    (sourceSetWith p tag fields s).PortsInOrder := by
  unfold Machine.sourceSetWith
  split
  · exact h.checked fun v => ite_keeps (h.notified (.configureSource v.1 v.2 s)).answerOk.configChanged h.refuse
  · exact h.refuse

theorem State.ReadyFor.routeSetWith (h : s.ReadyFor p) (tag : Byte) (fields : List Byte) :
    (routeSetWith p tag fields s).PortsInOrder := by
  refine h.checked fun v => ite_keeps h.refuse (ite_keeps h.refuse (State.PortsInOrder.configChanged ?_))
  have hanswer := (h.notified (.configureRoute v.1 v.2 s)).answerOk (code := routeSetCode) (tag := tag)
    (fields := [byte (cutToDepth v.2.depth (s.route v.1).queue).1.length])
  exact ((notifiesPorts_handOnKeeps _).handSome _ _ (.refl _)).portsInOrder hanswer

theorem State.ReadyFor.claimRouteWith (h : s.ReadyFor p) (tag : Byte) (fields : List Byte) :
    (claimRouteWith p tag fields s).PortsInOrder := by
  unfold Machine.claimRouteWith
  split
  · refine h.checked fun v => ?_
    unfold claimRouteChecked
    cases s.claim p v.1 v.2 with
    | denied => exact h.answerWith
    | keep => exact h.answerOk.configChanged
    | change => exact (h.notified (.claimChanges p v.1 s)).answerOk.configChanged
  · exact h.refuse

theorem State.ReadyFor.releaseRouteWith (h : s.ReadyFor p) (tag : Byte) (fields : List Byte) :
    (releaseRouteWith p tag fields s).PortsInOrder := by
  unfold Machine.releaseRouteWith
  split
  · exact h.checked fun r => ite_keeps (h.notified (.releaseRoute p r s)).answerOk.configChanged h.refuse
  · exact h.refuse

theorem State.ReadyFor.resumeRouteWith (h : s.ReadyFor p) (tag : Byte) (fields : List Byte) :
    (resumeRouteWith p tag fields s).PortsInOrder := by
  unfold Machine.resumeRouteWith
  split
  · exact h.checked fun r => ite_keeps (h.notified (.updRoute r _ s)).answerOk h.refuse
  · exact h.refuse

theorem State.ReadyFor.serviceDoneWith (h : s.ReadyFor p) (tag : Byte) (fields : List Byte) :
    (serviceDoneWith p tag fields s).PortsInOrder := by
  unfold Machine.serviceDoneWith
  split
  · refine h.checked fun v => ite_keeps ?_ h.refuse
    cases (s.route v.1).batchOf v.2.1 with
    | none => exact h.refuse
    | some b => exact ite_keeps h.refuse (h.notified (.completeBatch v.1 v.2.2 b s)).answerOk.handOnHeld
  · exact h.refuse

theorem State.ReadyFor.actionSetWith (h : s.ReadyFor p) (tag : Byte) (fields : List Byte) :
    (actionSetWith p tag fields s).PortsInOrder :=
  h.checked fun v => ite_keeps (h.notified (.updAction v.1 _ s)).answerOk.configChanged h.refuse

theorem State.ReadyFor.cancelActionWith (h : s.ReadyFor p) (tag : Byte) (fields : List Byte) :
    (cancelActionWith p tag fields s).PortsInOrder := by
  unfold Machine.cancelActionWith
  split
  · refine h.checked fun n => ?_
    unfold cancelActionChecked
    cases (s.action n).state with
    | grace left =>
      exact (h.notified ((NotifiesPorts.endGrace n .cancelled (some p) s).trans (.updAction n _ _))).answerOk
    | fired cause pulse => exact h.answerWith
    | idle => exact h.answerWith
  · exact h.refuse

theorem State.ReadyFor.setOutputWith (h : s.ReadyFor p) (tag : Byte) (fields : List Byte) :
    (setOutputWith p tag fields s).PortsInOrder := by
  unfold Machine.setOutputWith
  split
  · exact h.checked fun n => (h.notified (.setOutput p n s)).answerOk.handOnHeld
  · exact h.refuse

theorem State.ReadyFor.clearOutputWith (h : s.ReadyFor p) (tag : Byte) (fields : List Byte) :
    (clearOutputWith p tag fields s).PortsInOrder := by
  unfold Machine.clearOutputWith
  split
  · refine h.checked fun n => ?_
    unfold clearOutputChecked
    cases (s.action n).state with
    | fired cause pulse => exact (h.notified (.updAction n _ s)).answerOk
    | idle => exact h.refuse
    | grace left => exact h.refuse
  · exact h.refuse

/-! ### Every command and every step -/

theorem State.PortsInOrder.of_request {code : Byte} {rest : List Byte} {act : Byte → List Byte → State → State}
    (h : taken s (request p code rest act) = .next t) (hcode : code ≠ openCode) (hs : s.PortsInOrder)
    (hact : ∀ u : State, u.ReadyFor p → ∀ tag fields, (act tag fields u).PortsInOrder) : t.PortsInOrder := by
  refine keeps_of_taken h ?_ hs
  unfold request
  cases e : Machine.takeRequest p code rest s with
  | none => exact hs
  | some u =>
    have hu := hs.takeRequest hcode e
    cases rest with
    | nil => exact hu.refuse
    | cons tag fields => exact hact u hu tag fields

/-- What the receiver finds, it finds while no break stands (R155). -/
theorem State.PortsInOrder.of_received {f : State → State} (h : received p s f = .next t) (hs : s.PortsInOrder)
    (hf : (s.port p).breakReported = false → (f s).PortsInOrder) : t.PortsInOrder := by
  cases hb : (s.port p).breakReported with
  | false => exact keeps_of_received h (hf hb) hs
  | true =>
    rw [received_of_space hb] at h
    cases h
    exact hs

theorem PortState.initial_inOrder (cause : ResetCause) : (PortState.initial cause).InOrder :=
  (PortState.inOrder_iff _).2 ⟨⟨Nat.zero_le 8, fun _ => rfl⟩, PortState.initial_quietOutsideSession cause, Nat.le_refl 1,
    (by decide : 1 ≤ 4), Nat.zero_le 1⟩

theorem released_portsInOrder (pending : List Instr) (arrivals : Nat) (cause : HardCause) (rate1 rate0 : Bool) :
    (State.released pending arrivals cause rate1 rate0).PortsInOrder := by
  intro p
  rw [released_port]
  exact PortState.initial_inOrder _

theorem State.PortsInOrder.tick (h : s.PortsInOrder) : s.tick.PortsInOrder := by
  intro p
  rw [tick_port]
  exact (h p).tick

/-- Every command keeps the ports in order. -/
theorem State.PortsInOrder.exec {c : Instr} (h : exec c s = .next t) (hs : s.PortsInOrder) : t.PortsInOrder := by
  have hnotified {f : State → State} (h : taken s f = .next t) (hf : NotifiesPorts s (f s)) : t.PortsInOrder :=
    keeps_of_taken h (hf.portsInOrder hs) hs
  cases c with
  | hardReset cause =>
    cases h
    exact (released_portsInOrder s.pending s.arrivals _ false false).of_eq rfl
  | resetRelease rate1 rate0 =>
    cases h
    split
    · exact hs
    · exact released_portsInOrder s.pending s.arrivals _ rate1 rate0
  | sampleInstant raw => exact hnotified h (ite_keeps (.of_eq rfl) (.refl s))
  | acceptedLevelChange i => exact hnotified h (ite_keeps (.acceptChange i s) (.refl s))
  | settleReport i => exact hnotified h (ite_keeps (.settleLine i s) (.refl s))
  | holdoffExpiry i => exact hnotified h (.holdoffExpires _ s)
  | serviceTimerExpiry r => exact hnotified h (.serviceTimerExpires r s)
  | graceExpiry n => exact hnotified h (.graceExpires n s)
  | pulseExpiry n => exact hnotified h (.pulseExpires n s)
  | formBatch p =>
    change execFormBatch p s = .next t at h
    refine keeps_of_taken h ?_ hs
    split
    next hchoice => exact hs.formBatch hchoice _
    · exact hs
  | reoffer p =>
    change execReoffer p s = .next t at h
    refine keeps_of_taken h ?_ hs
    split
    next hchoice => exact hs.reofferBatch hchoice _
    · exact hs
  | placeReply p =>
    change execPlaceReply p s = .next t at h
    refine keeps_of_taken h ?_ hs
    split
    next hchoice => exact hs.placeReply hchoice
    · exact hs
  | routeLost p | routeGained p =>
    dsimp only [Machine.exec] at h
    refine keeps_of_taken h ?_ hs
    split
    next hchoice => exact hs.placeNotice hchoice (.clearRouteNotice _ _) _ _
    · exact hs
  | actionPending p | actionEnded p =>
    dsimp only [Machine.exec] at h
    refine keeps_of_taken h ?_ hs
    split
    next hchoice => exact hs.placeNotice hchoice (.of_session (State.choice_room hchoice).1.ne_closed rfl) _ _
    · exact hs
  | syncByte p => exact of_received h hs fun hb => hs.port ((hs p).takeSync hb)
  | frameHeaderReceived p bytes => exact of_received h hs fun hb => hs.port ((hs p).takeHeader hb bytes)
  | payloadBad p ftype bytes => exact of_received h hs fun _ => hs.port ((hs p).takeBadPayload ftype bytes)
  | skipComplete p => exact of_received h hs fun _ => hs.port (hs p).skipped
  | interByteGap p | framingError p => exact keeps_of_taken h (hs.port (hs p).abandon) hs
  | dataFrameReceived p seq info payload =>
    exact of_received h hs fun hb => ite_keeps (hs.dataFrame hb seq info payload) hs
  | ackFrameReceived p seq info payload => exact of_received h hs fun _ => ite_keeps (hs.ackFrame p seq info) hs
  | announceFrameReceived p seq info payload =>
    exact of_received h hs fun _ => ite_keeps (hs.port (hs p).hearAnnounce) hs
  | ackDelayExpiry p => exact keeps_of_taken h (hs.port (hs p).ackDelayPasses) hs
  | transmitAckFrame p => exact keeps_of_taken h (ite_keeps (hs.port (hs p).beginAck) hs) hs
  | transmitDataFrame p =>
    change execTransmitDataFrame p s = .next t at h
    refine keeps_of_taken h ?_ hs
    split
    · exact hs.port ((hs p).beginData _)
    · exact hs
  | frameTransmitEnd p => exact keeps_of_taken h (hs.port (hs p).endFrame) hs
  | retransmitTimeout p => exact keeps_of_taken h (hs.retransmitExpires p) hs
  | linkBreak p =>
    change execLinkBreak p s = .next t at h
    exact keeps_of_taken h (ite_keeps hs (hs.linkBreak p)) hs
  | breakLineMark p => exact keeps_of_taken h (hs.port (hs p).seeMark) hs
  | announce p =>
    change execAnnounce p s = .next t at h
    refine keeps_of_taken h ?_ hs
    split
    next hmay => exact hs.beginAnnounce hmay
    · exact hs
  | silenceExpiry p =>
    change execSilenceExpiry p s = .next t at h
    refine keeps_of_taken h ?_ hs
    split
    next hexpiry => exact hs.silenceExpires (Bool.and_eq_true_iff.1 hexpiry).1
    · exact hs
  | deviceResetTimeout p => exact keeps_of_taken h (ite_keeps hs.softReset hs) hs
  | openSession p seq rest =>
    change execOpenSession p seq rest s = .next t at h
    refine keeps_of_taken h ?_ hs
    split
    · exact hs
    next u hu =>
      obtain ⟨hin, hb⟩ := hs.takeOpen hu
      exact hin.openTaken hb seq rest
  | close p rest => exact of_request h (by decide) hs fun _ hu => hu.closeWith
  | dormant p rest => exact of_request h (by decide) hs fun _ hu => hu.dormantWith
  | deviceReset p rest => exact of_request h (by decide) hs fun _ hu => hu.deviceResetWith
  | setTime p rest => exact of_request h (by decide) hs fun _ hu => hu.setTimeWith
  | sourceSet p rest => exact of_request h (by decide) hs fun _ hu => hu.sourceSetWith
  | routeSet p rest => exact of_request h (by decide) hs fun _ hu => hu.routeSetWith
  | claimRoute p rest => exact of_request h (by decide) hs fun _ hu => hu.claimRouteWith
  | releaseRoute p rest => exact of_request h (by decide) hs fun _ hu => hu.releaseRouteWith
  | resumeRoute p rest => exact of_request h (by decide) hs fun _ hu => hu.resumeRouteWith
  | serviceDone p rest => exact of_request h (by decide) hs fun _ hu => hu.serviceDoneWith
  | actionSet p rest => exact of_request h (by decide) hs fun _ hu => hu.actionSetWith
  | cancelAction p rest => exact of_request h (by decide) hs fun _ hu => hu.cancelActionWith
  | setOutput p rest => exact of_request h (by decide) hs fun _ hu => hu.setOutputWith
  | clearOutput p rest => exact of_request h (by decide) hs fun _ hu => hu.clearOutputWith
  | ping p rest | status p rest | getTime p rest | lineRead p rest =>
    refine of_request h (by decide) hs fun _ hu _ fields => ?_
    cases fields with
    | nil => exact hu.answerOk
    | cons field fields => exact hu.refuse
  | sourceGet p rest | routeGet p rest | actionGet p rest | historyRead p rest =>
    refine of_request h (by decide) hs fun _ hu _ fields => ?_
    dsimp only [sourceGetWith, routeGetWith, actionGetWith, historyReadWith]
    split
    · exact hu.checked fun _ => hu.answerOk
    · exact hu.refuse
  | badCode p code rest =>
    change execBadCode p code rest s = .next t at h
    refine keeps_of_taken h ?_ hs
    unfold answerBadCode
    split
    · exact hs
    next hunknown =>
      have hcode : code ≠ openCode := fun e => hunknown (e ▸ rfl)
      cases e : Machine.takeRequest p code rest s with
      | none => exact hs
      | some u =>
        have hu := hs.takeRequest hcode e
        exact hu.inOrder.port ((hu.inOrder p).queueReply hu.awake hu.room _ _)

/-- And so does every step: a command, or one microsecond. -/
theorem State.PortsInOrder.step (h : step s = .next t) (hs : s.PortsInOrder) : t.PortsInOrder := by
  unfold Machine.step at h
  split at h
  · cases h
    exact ite_keeps hs hs.handOnHeld.tick
  · exact State.PortsInOrder.exec h (hs.of_eq rfl)

/-- Settles O58: a port holds something of a session only while it has one, a session's windows and places are asked for
before they are used, and whatever ends a session clears the port. -/
theorem stepKeepsPortsInOrder : Obligations.StepKeepsPortsInOrder :=
  fun s t h hs => (State.portsInOrder_iff t).1 (State.PortsInOrder.step h ((State.portsInOrder_iff s).2 hs))

end Sys2Proof.Machine

namespace Sys2Proof.Machine

variable {s : State} {p : Port} {P : PortState}

/-! ## The receiver

What each phase of the receiver makes of each event, port by port, and the commands as these changes of a port. -/

theorem taken_of_same {f : State → State} (h : f s = s) : taken s f = .next s := by
  unfold taken
  rw [h, ite_self]

theorem received_of_same {f : State → State} (h : f s = s) : received p s f = .next s :=
  taken_of_same (by rw [h, ite_self])

/-- A command of the receiver that changes one port, by what the change comes to on it. -/
theorem received_updPort {f g : PortState → PortState} (hr : s.running) (hm : (s.port p).breakReported = false)
    (h : f (s.port p) = g (s.port p)) : (received p s fun s => s.updPort p f) = .next (s.updPort p g) := by
  rw [received_of_mark hr hm, State.updPort_congr h]

/-- The same for a command that a reported break does not keep away. -/
theorem taken_updPort {f g : PortState → PortState} (hr : s.running) (h : f (s.port p) = g (s.port p)) :
    (taken s fun s => s.updPort p f) = .next (s.updPort p g) := by
  rw [taken_of_running hr, State.updPort_congr h]

/-! ### O27: the phases -/

theorem PortState.takeSync_of_hunt (h : P.receiver = .hunt) : P.takeSync = { P with receiver := .header [0xB4] } := by
  unfold PortState.takeSync
  rw [h]
  rfl

theorem PortState.takeSync_of_not_hunt (h : P.receiver ≠ .hunt) : P.takeSync = P := by
  unfold PortState.takeSync
  split
  next e => exact absurd e h
  all_goals rfl

theorem PortState.skipped_of_skip {left : Nat} (h : P.receiver = .skip left) : P.skipped = { P with receiver := .hunt } := by
  unfold PortState.skipped
  rw [h]
  rfl

theorem PortState.skipped_of_not_skip (h : ∀ left, P.receiver ≠ .skip left) : P.skipped = P := by
  unfold PortState.skipped
  split
  next left e => exact absurd e (h left)
  all_goals rfl

theorem PortState.discardPayload_eq (data : Bool) (P : PortState) :
    P.discardPayload data =
      { P with
        receiver := .hunt
        report := if P.session = .closed then P.report else { P.report with payloadBad := true }
        ackDemand := if P.session ≠ .closed ∧ data = true then true else P.ackDemand } := by
  unfold PortState.discardPayload PortState.toHunt
  cases data
  · simp [PortState.record_eq, ReportFlags.setPayloadBad]
  · simp [PortState.record_eq, PortState.demand_eq, ReportFlags.setPayloadBad]

theorem PortState.abandon_of_hunt (h : P.receiver = .hunt) : P.abandon = P := by
  unfold PortState.abandon
  rw [h]

theorem PortState.abandon_of_skip {left : Nat} (h : P.receiver = .skip left) : P.abandon = { P with receiver := .hunt } := by
  unfold PortState.abandon
  rw [h]
  rfl

theorem PortState.abandon_of_header {gathered : List Byte} (h : P.receiver = .header gathered) :
    P.abandon =
      { P with
        receiver := .hunt
        report := if P.session = .closed then P.report else { P.report with headerBad := true } } := by
  unfold PortState.abandon
  rw [h]
  dsimp only
  rw [PortState.record_eq]
  rfl

theorem PortState.abandon_of_payload {header gathered : List Byte} (h : P.receiver = .payload header gathered) :
    P.abandon = P.discardPayload (isDataHeader header) := by
  unfold PortState.abandon
  rw [h]

theorem isDataHeader_cons (sync type : Byte) (rest : List Byte) : isDataHeader (sync :: type :: rest) = true ↔ type = 0x01 := by
  simp [isDataHeader, frameTypeCode]

/-- A gap and a framing error abandon alike. -/
theorem exec_abandons {f : PortState → PortState} (hr : s.running) (h : (s.port p).abandon = f (s.port p)) :
    exec (.interByteGap p) s = .next (s.updPort p f) ∧ exec (.framingError p) s = .next (s.updPort p f) :=
  ⟨taken_updPort hr h, taken_updPort hr h⟩

theorem exec_passesOver (h : (s.port p).receiver = .hunt) :
    exec (.interByteGap p) s = .next s ∧ exec (.framingError p) s = .next s :=
  have hsame : s.updPort p PortState.abandon = s := State.updPort_id (PortState.abandon_of_hunt h)
  ⟨taken_of_same hsame, taken_of_same hsame⟩

theorem exec_syncByte_of_not_hunt (h : (s.port p).receiver ≠ .hunt) : exec (.syncByte p) s = .next s :=
  received_of_same (State.updPort_id (PortState.takeSync_of_not_hunt h))

theorem exec_skipComplete_of_not_skip (h : ∀ left, (s.port p).receiver ≠ .skip left) : exec (.skipComplete p) s = .next s :=
  received_of_same (State.updPort_id (PortState.skipped_of_not_skip h))

/-- Settles O27, phase by phase. -/
theorem receiverPhasesEnd : Obligations.ReceiverPhasesEnd := by
  refine fun p s hr => ⟨fun h => ⟨fun hm => ?_, ?_, ?_, ?_⟩, fun left h => ⟨fun hm => ?_, ?_, ?_, ?_⟩, fun gathered h => ?_,
    fun sync type rest gathered h => ?_, fun header gathered h => ⟨?_, ?_⟩⟩
  · exact received_updPort hr hm (PortState.takeSync_of_hunt h)
  · exact (exec_passesOver h).1
  · exact (exec_passesOver h).2
  · exact exec_skipComplete_of_not_skip fun left e => Receiver.noConfusion (h.symm.trans e)
  · exact received_updPort hr hm (PortState.skipped_of_skip h)
  · exact (exec_abandons hr (PortState.abandon_of_skip h)).1
  · exact (exec_abandons hr (PortState.abandon_of_skip h)).2
  · exact exec_syncByte_of_not_hunt fun e => Receiver.noConfusion (h.symm.trans e)
  · have habandon := PortState.abandon_of_header h
    exact ⟨(exec_abandons hr habandon).1, (exec_abandons hr habandon).2,
      exec_syncByte_of_not_hunt fun e => Receiver.noConfusion (h.symm.trans e),
      exec_skipComplete_of_not_skip fun left e => Receiver.noConfusion (h.symm.trans e)⟩
  · refine exec_abandons hr ?_
    simp only [PortState.abandon_of_payload h, PortState.discardPayload_eq, isDataHeader_cons]
  · exact exec_syncByte_of_not_hunt fun e => Receiver.noConfusion (h.symm.trans e)
  · exact exec_skipComplete_of_not_skip fun left e => Receiver.noConfusion (h.symm.trans e)

end Sys2Proof.Machine

namespace Sys2Proof.Machine

variable {s : State} {p : Port} {P : PortState}

/-! ### O28: headers -/

section Header

variable {type seq info l0 l1 hchk : Byte}

/-- The checks of a whole header, with its fields in their places. -/
theorem PortState.judgeHeader_eq (P : PortState) (type seq info l0 l1 hchk : Byte) :
    P.judgeHeader [0xB4, type, seq, info, l0, l1, hchk] =
      if [crc8 [0xB4, type, seq, info, l0, l1]] ≠ [hchk] then
        { P.record ReportFlags.setHeaderBad with receiver := rescan [type, seq, info, l0, l1, hchk] }
      else if 256 < l0.toNat + 256 * l1.toNat then { P.record ReportFlags.setTooLong with receiver := .hunt }
      else if (frameTypeOf type).isNone then
        { P.record ReportFlags.setUnknownType with
          receiver := if l0.toNat + 256 * l1.toNat = 0 then .hunt else .skip (l0.toNat + 256 * l1.toNat + 2) }
      else
        { P with
          receiver :=
            if l0.toNat + 256 * l1.toNat = 0 then .hunt else .payload [0xB4, type, seq, info, l0, l1, hchk] [] } := by
  rw [← leNumber_two]
  rfl

theorem exec_frameHeaderReceived {gathered bytes : List Byte} (hr : s.running) (hm : (s.port p).breakReported = false)
    (h : (s.port p).receiver = .header gathered ∨ (s.port p).receiver = .hunt ∧ gathered = [])
    (hb : gathered ++ bytes = [0xB4, type, seq, info, l0, l1, hchk]) {f : PortState → PortState}
    (hf : (s.port p).judgeHeader [0xB4, type, seq, info, l0, l1, hchk] = f (s.port p)) :
    exec (.frameHeaderReceived p bytes) s = .next (s.updPort p f) := by
  refine received_updPort hr hm (Eq.trans ?_ hf)
  unfold PortState.takeHeader
  obtain h | ⟨h, rfl⟩ := h
  · rw [h]
    dsimp only
    rw [hb]
    rfl
  · rw [h]
    dsimp only
    rw [← List.nil_append bytes, hb]
    rfl

/-- Settles O28: the three checks in their order. -/
theorem headerIsJudged : Obligations.HeaderIsJudged := by
  refine fun p gathered bytes type seq info l0 l1 hchk s hr hm h hb => ⟨fun hbad => ⟨fun hnone => ?_, fun before after hat hnone => ?_⟩,
    fun hgood => ⟨fun hlong => ?_, fun hshort hunknown => ?_, fun hshort hknown => ?_⟩⟩ <;>
    refine exec_frameHeaderReceived hr hm h hb ?_ <;> rw [PortState.judgeHeader_eq]
  · rw [if_pos (mt List.singleton_inj.1 hbad), rescan_none _ hnone, PortState.record_eq]
    rfl
  · rw [if_pos (mt List.singleton_inj.1 hbad), hat, rescan_some _ _ hnone, PortState.record_eq]
    rfl
  · rw [if_neg (not_not_intro (congrArg (· :: []) hgood)), if_pos hlong, PortState.record_eq]
    rfl
  · rw [if_neg (not_not_intro (congrArg (· :: []) hgood)), if_neg (Nat.not_lt.2 hshort), if_pos ((frameTypeOf_isNone type).2 hunknown), PortState.record_eq]
    rfl
  · rw [if_neg (not_not_intro (congrArg (· :: []) hgood)), if_neg (Nat.not_lt.2 hshort), if_neg fun e => (frameTypeOf_isNone type).1 e hknown, ite_self]

end Header

/-! ### O29: payloads whose check fails -/

theorem payloadCheckFails_append (payload : List Byte) (c0 c1 : Byte) :
    payloadCheckFails (payload ++ [c0, c1]) = true ↔ (crc16 payload).toNat ≠ c0.toNat + 256 * c1.toNat := by
  simp [payloadCheckFails, leBytes_two_eq _ (crc16 payload).isLt]

theorem PortState.takeBadPayload_of_fails {t : FrameType} {bytes : List Byte} (hc : P.payloadIsComplete t bytes = true)
    (hf : payloadCheckFails (P.payloadBytes bytes) = true) : P.takeBadPayload t bytes = P.discardPayload (t == .data) := by
  unfold PortState.takeBadPayload
  rw [hc, hf]
  rfl

/-- A payload and its check complete the frame of the header gathered; in HUNT they are a frame of their own. -/
theorem PortState.payloadIsComplete_of {t : FrameType} {gathered bytes payload : List Byte} {seq info l0 l1 hchk c0 c1 : Byte}
    (hb : gathered ++ bytes = payload ++ [c0, c1])
    (h : P.receiver = .payload [0xB4, frameTypeCode t, seq, info, l0, l1, hchk] gathered ∧
        payload.length = l0.toNat + 256 * l1.toNat ∨
      P.receiver = .hunt ∧ gathered = [] ∧ 1 ≤ payload.length ∧ payload.length ≤ 256) :
    P.payloadIsComplete t bytes = true ∧ P.payloadBytes bytes = payload ++ [c0, c1] := by
  unfold PortState.payloadIsComplete PortState.payloadBytes
  obtain ⟨h, hlen⟩ | ⟨h, rfl, hlow, hhigh⟩ := h
  · rw [h]
    refine ⟨?_, hb⟩
    have hfield : leNumber [l0, l1] = payload.length := by rw [leNumber_two, hlen]
    simp [hb, hfield]
  · rw [h]
    rw [List.nil_append] at hb
    refine ⟨?_, hb⟩
    subst hb
    simp [Config.longestPayload]
    omega

/-- Settles O29: a complete payload with another check is discarded. -/
theorem badPayloadIsDiscarded : Obligations.BadPayloadIsDiscarded := by
  intro p t gathered bytes payload seq info l0 l1 hchk c0 c1 s hr hm h hb hcheck
  refine received_updPort hr hm ?_
  obtain ⟨hcomplete, hbytes⟩ := PortState.payloadIsComplete_of hb h
  rw [PortState.takeBadPayload_of_fails hcomplete (hbytes ▸ (payloadCheckFails_append ..).2 hcheck),
    PortState.discardPayload_eq]
  simp only [beq_iff_eq]

end Sys2Proof.Machine

namespace Sys2Proof.Machine

/-! ### O30: the frame checks and the bytes of a frame -/

section Crc

variable {w : Nat}

/-- A CRC register takes one bit in. -/
def crcTakes (poly r : BitVec w) (bit : Bool) : BitVec w := if r.msb = bit then r <<< 1 else (r <<< 1) ^^^ poly

/-- The bits of a byte, the most significant first. -/
def byteBits (b : Byte) : List Bool := [7, 6, 5, 4, 3, 2, 1, 0].map fun k : Nat => b.getLsbD k

/-- Bit steps on a register with a word folded into it take the word's bits in from its top; what is left of the word stays
folded in. -/
theorem crcBits_xor (poly r x : BitVec w) (n : Nat) :
    crcBits poly n (r ^^^ x) = ((List.range n).map fun k => (x <<< k).msb).foldl (crcTakes poly) r ^^^ (x <<< n) := by
  induction n generalizing r x with
  | zero => simp [crcBits]
  | succ n ih =>
    rw [crcBits_succ_xor, ih, List.range_succ_eq_map, List.map_cons, List.foldl_cons, List.map_map]
    simp only [crcTakes, Function.comp_def, BitVec.shiftLeft_zero, ← BitVec.shiftLeft_add, Nat.succ_eq_add_one,
      Nat.add_comm 1]

theorem crcBits_byte8 (poly r b : Byte) : crcBits poly 8 (r ^^^ b) = (byteBits b).foldl (crcTakes poly) r := by
  have hbits : ((List.range 8).map fun k => (b <<< k).msb) = byteBits b := by
    simp [List.range_succ, byteBits, BitVec.msb_eq_getLsbD_last]
  have hgone : b <<< 8 = 0#8 := BitVec.shiftLeft_eq_zero (Nat.le_refl 8)
  rw [crcBits_xor, hbits, hgone, BitVec.xor_zero]

theorem crcBits_byte16 (poly r : Half) (b : Byte) :
    crcBits poly 8 (r ^^^ (b.setWidth 16 <<< 8)) = (byteBits b).foldl (crcTakes poly) r := by
  have hbits : ((List.range 8).map fun k => ((b.setWidth 16 <<< 8) <<< k).msb) = byteBits b := by
    simp [List.range_succ, byteBits, BitVec.msb_eq_getLsbD_last]
  have hgone : (b.setWidth 16 <<< 8) <<< 8 = 0#16 := by
    rw [← BitVec.shiftLeft_add]
    exact BitVec.shiftLeft_eq_zero (Nat.le_refl 16)
  rw [crcBits_xor, hbits, hgone, BitVec.xor_zero]

theorem crc8_eq_foldl_bits (bytes : List Byte) : crc8 bytes = (bytes.flatMap byteBits).foldl (crcTakes 0x07#8) 0x00#8 := by
  unfold crc8
  simp only [crcBits_byte8, List.foldl_flatMap]

theorem crc16_eq_foldl_bits (bytes : List Byte) :
    crc16 bytes = (bytes.flatMap byteBits).foldl (crcTakes 0x1021#16) 0xFFFF#16 := by
  unfold crc16
  simp only [crcBits_byte16, List.foldl_flatMap]

end Crc

theorem Frame.bytes_eq (f : Frame) :
    f.bytes =
      headerBytes f.ftype f.seq f.info f.payload.length ++ [crc8 (headerBytes f.ftype f.seq f.info f.payload.length)] ++
        if f.payload.length = 0 then [] else f.payload ++ leBytes 2 (crc16 f.payload).toNat := by
  unfold Frame.bytes
  simp only [List.length_eq_zero_iff]

/-- Settles O30: each byte is taken in bit by bit, and the bytes of a frame stand in their places. -/
theorem frameChecksGiveTheirCheckValues : Obligations.FrameChecksGiveTheirCheckValues := by
  refine ⟨crc8_eq_foldl_bits, crc16_eq_foldl_bits, fun f => ?_, by decide +kernel⟩
  obtain ⟨ftype, seq, info, payload⟩ := f
  cases ftype <;> exact Frame.bytes_eq _

end Sys2Proof.Machine

namespace Sys2Proof.Machine

variable {s : State} {p : Port} {P : PortState} {t : FrameType} {seq info : Byte} {payload : List Byte}

/-! ## Valid frames

### O31: DATA frames -/

theorem PortState.completes_iff (t : FrameType) (seq info : Byte) (payload : List Byte) (P : PortState) :
    P.completes t seq info payload = true ↔
      payload.length ≤ 256 ∧
        (P.receiver = .hunt ∨
          ∃ header gathered, P.receiver = .payload header gathered ∧ payload ≠ [] ∧ (∃ rest, gathered ++ rest = payload) ∧
            header.take 6 =
              [0xB4, frameTypeCode t, seq, info, BitVec.ofNat 8 payload.length, BitVec.ofNat 8 (payload.length / 256)]) := by
  have hheader : headerBytes t seq info payload.length =
      [0xB4, frameTypeCode t, seq, info, BitVec.ofNat 8 payload.length, BitVec.ofNat 8 (payload.length / 256)] := rfl
  unfold PortState.completes
  rw [Bool.and_eq_true, decide_eq_true_iff, hheader]
  refine and_congr_right fun _ => ?_
  cases P.receiver with
  | hunt => simp
  | header gathered => simp
  | skip left => simp
  | payload header gathered =>
    simp only [Bool.and_eq_true, beq_iff_eq, Bool.not_eq_true', List.isEmpty_eq_false_iff, List.isPrefixOf_iff_prefix,
      List.IsPrefix, reduceCtorEq, false_or, Receiver.payload.injEq]
    refine ⟨fun ⟨⟨hfields, hbegins⟩, hfull⟩ => ⟨_, _, ⟨rfl, rfl⟩, hfull, hbegins, hfields⟩, ?_⟩
    rintro ⟨_, _, ⟨rfl, rfl⟩, hfull, hbegins, hfields⟩
    exact ⟨⟨hfields, hbegins⟩, hfull⟩

theorem exec_dataFrameReceived (hr : s.running) (hm : (s.port p).breakReported = false)
    (hc : (s.port p).completes .data seq info payload = true) :
    exec (.dataFrameReceived p seq info payload) s = .next (dataFrame p seq info payload s) :=
  (received_of_mark hr hm _).trans (by rw [if_pos hc])

/-- The receiver returns to HUNT and the session layer hears the frame. -/
theorem State.updPort_hears (h : (s.port p).session ≠ .closed) :
    (s.updPort p PortState.toHunt).updPort p PortState.hearFrame = s.updPort p PortState.heard := by
  rw [State.updPort_updPort]
  exact State.updPort_congr (PortState.hearFrame_toHunt _ h)

theorem dataFrame_of_session (h : (s.port p).session ≠ .closed) (seq info : Byte) (payload : List Byte) :
    dataFrame p seq info payload s = dataInSession p seq info payload (s.updPort p PortState.heard) := by
  unfold dataFrame
  dsimp only
  rw [if_neg h, State.updPort_hears h]

/-- A frame that is no OPEN, judged as `f` says. -/
theorem exec_dataFrameReceived_of_judge (hr : s.running) (hm : (s.port p).breakReported = false)
    (hc : (s.port p).completes .data seq info payload = true) (hs : (s.port p).session ≠ .closed)
    (ho : payload.head? ≠ some 0x01) {f : PortState → PortState}
    (hf : (s.port p).heard.judge seq payload = f (s.port p).heard) :
    exec (.dataFrameReceived p seq info payload) s = .next (applyAck p info (s.updPort p fun P => f P.heard)) := by
  rw [exec_dataFrameReceived hr hm hc, dataFrame_of_session hs]
  unfold dataInSession
  rw [if_neg (mt (isOpen_iff payload).1 ho), State.updPort_updPort]
  exact congrArg (fun u => Host.Outcome.next (applyAck p info u)) (State.updPort_congr hf)

theorem ne_of_duplicateSeq {e q : Byte} (h : duplicateSeq e q = true) : q ≠ e := by
  rintro rfl
  simp [duplicateSeq] at h

theorem ne_of_aheadSeq {e q : Byte} (h : aheadSeq e q = true) : q ≠ e := by
  rintro rfl
  simp [aheadSeq] at h

theorem not_duplicateSeq_of_aheadSeq {e q : Byte} (h : aheadSeq e q = true) : duplicateSeq e q = false := by
  simp only [aheadSeq, Bool.and_eq_true, decide_eq_true_eq] at h
  simp only [duplicateSeq, Bool.and_eq_false_iff, decide_eq_false_iff_not]
  bv_omega

/-- A SEQ beyond the window on either side. -/
theorem seq_of_far {e q : Byte} (h : 4 ≤ (q - e).toNat) (h' : (q - e).toNat ≤ 251) :
    q ≠ e ∧ duplicateSeq e q = false ∧ aheadSeq e q = false := by
  simp only [duplicateSeq, aheadSeq, Bool.and_eq_false_iff, decide_eq_false_iff_not]
  refine ⟨?_, ?_, .inr (by omega)⟩
  · bv_omega
  · bv_omega

theorem PortState.accept_eq (requests : List Request) (P : PortState) :
    P.accept requests =
      { P with
        expected := P.expected + 1, session := .up, accepted := P.accepted ++ requests
        ackOwed := if P.ackOwed = .clear then .waiting 1000 else P.ackOwed } := by
  unfold PortState.accept
  rw [AckOwed.set_eq]

theorem PortState.demand_of_session (h : P.session ≠ .closed) : P.demand = { P with ackDemand := true } := if_neg h

theorem PortState.record_demand_of_session (h : P.session ≠ .closed) (set : ReportFlags → ReportFlags) :
    (P.record set).demand = { P with report := set P.report, ackDemand := true } := by
  rw [PortState.record, if_neg h]
  exact PortState.demand_of_session h

theorem PortState.judge_of_empty (h : seq = P.expected) (he : payload = []) : P.judge seq payload = P.accept [] := by
  unfold PortState.judge
  rw [if_pos h, if_pos he]

theorem PortState.judge_of_room (h : seq = P.expected) (hf : payload ≠ []) (hroom : P.placesUsed < 8) :
    P.judge seq payload = P.accept [{ seq := seq, payload := payload }] := by
  unfold PortState.judge
  rw [if_pos h, if_neg hf]
  exact if_pos hroom

theorem PortState.judge_of_full (h : seq = P.expected) (hf : payload ≠ []) (hfull : 8 ≤ P.placesUsed) :
    P.judge seq payload = (P.record ReportFlags.setRxFull).demand := by
  unfold PortState.judge
  rw [if_pos h, if_neg hf]
  exact if_neg (Nat.not_lt.2 hfull)

theorem PortState.judge_of_duplicate (h : duplicateSeq P.expected seq = true) : P.judge seq payload = P.demand := by
  unfold PortState.judge
  rw [if_neg (ne_of_duplicateSeq h), if_pos h]

theorem PortState.judge_of_ahead (h : aheadSeq P.expected seq = true) :
    P.judge seq payload = (P.record ReportFlags.setOutOfOrder).demand := by
  unfold PortState.judge
  rw [if_neg (ne_of_aheadSeq h), not_duplicateSeq_of_aheadSeq h, if_pos h]
  rfl

theorem PortState.judge_of_far (h : 4 ≤ (seq - P.expected).toNat) (h' : (seq - P.expected).toNat ≤ 251) :
    P.judge seq payload = (P.record ReportFlags.setWindowExceeded).demand := by
  obtain ⟨hne, hdup, hahead⟩ := seq_of_far h h'
  unfold PortState.judge
  rw [if_neg hne, hdup, hahead]
  rfl

/-- Settles O31: what completes a frame, the judgement by SEQ, and the OPEN within a session. -/
theorem dataFrameIsJudgedBySeq : Obligations.DataFrameIsJudgedBySeq := by
  refine ⟨PortState.completes_iff, fun p seq info payload s hr hm hc hs ho => ?_, fun p seq info rest s hr hm hc hs => ?_⟩
  · have hheard := PortState.heard_session (s.port p) hs
    intro e becomes accepted
    have hbecomes (f : PortState → PortState) (hf : (s.port p).heard.judge seq payload = f (s.port p).heard) : becomes f :=
      exec_dataFrameReceived_of_judge hr hm hc hs ho hf
    clear_value becomes
    refine ⟨fun he hempty => ?_, fun he hfull hroom => ?_, fun he hfull hnone => ?_, fun hdup => ?_, fun hahead => ?_,
      fun hlow hhigh => ?_⟩ <;> refine hbecomes _ ?_
    · rw [PortState.judge_of_empty (P := (s.port p).heard) he hempty, PortState.accept_eq]
      rfl
    · rw [PortState.judge_of_room (P := (s.port p).heard) he hfull hroom, PortState.accept_eq]
      rfl
    · rw [PortState.judge_of_full (P := (s.port p).heard) he hfull hnone, PortState.record_demand_of_session hheard]
      rfl
    · rw [PortState.judge_of_duplicate (P := (s.port p).heard) ((duplicateSeq_iff (s.port p).expected seq).2 hdup),
        PortState.demand_of_session hheard]
    · rw [PortState.judge_of_ahead (P := (s.port p).heard) ((aheadSeq_iff (s.port p).expected seq).2 hahead),
        PortState.record_demand_of_session hheard]
      rfl
    · rw [PortState.judge_of_far (P := (s.port p).heard) hlow hhigh, PortState.record_demand_of_session hheard]
      rfl
  · have hheard := PortState.heard_session (s.port p) hs
    rw [exec_dataFrameReceived hr hm hc, dataFrame_of_session hs]
    unfold dataInSession
    rw [if_pos ((isOpen_iff _).2 rfl), State.port_updPort_same, PortState.heard_expected]
    simp only [State.updPort_updPort]
    refine ⟨fun hdup => ?_, fun hnew => ?_⟩
    · rw [if_pos ((duplicateSeq_iff _ seq).2 hdup)]
      exact congrArg (fun u => Host.Outcome.next (applyAck p info u)) (State.updPort_congr (PortState.demand_of_session hheard))
    · rw [if_neg (mt (duplicateSeq_iff _ seq).1 hnew)]
      refine congrArg Host.Outcome.next (State.updPort_congr ?_)
      unfold PortState.acceptOpen
      rw [if_neg hheard]
      rfl

end Sys2Proof.Machine

namespace Sys2Proof.Machine

variable {s : State} {p : Port} {P : PortState} {seq info : Byte} {payload : List Byte}

/-! ### O34: ACK and ANNOUNCE frames -/

theorem exec_ackFrameReceived (hr : s.running) (hm : (s.port p).breakReported = false)
    (hc : (s.port p).completes .ack seq info payload = true) (hs : (s.port p).session ≠ .closed) :
    exec (.ackFrameReceived p seq info payload) s = .next (ackInSession p seq info (s.updPort p PortState.heard)) := by
  refine (received_of_mark hr hm _).trans ?_
  rw [if_pos hc]
  unfold ackFrame
  dsimp only
  rw [if_neg hs, State.updPort_hears hs]

theorem exec_announceFrameReceived (hr : s.running) (hm : (s.port p).breakReported = false)
    (hc : (s.port p).completes .announce seq info payload = true) (hs : (s.port p).session ≠ .closed) :
    exec (.announceFrameReceived p seq info payload) s = .next (s.updPort p PortState.heard) := by
  refine (received_of_mark hr hm _).trans ?_
  rw [if_pos hc]
  refine congrArg Host.Outcome.next (State.updPort_congr ?_)
  unfold PortState.hearAnnounce
  rw [if_neg hs, PortState.hearFrame_toHunt _ hs]

theorem carriesFlags_iff (info : Byte) : carriesFlags info = true ↔ info &&& 0x7F ≠ 0 := bne_iff_ne

theorem PortState.joinExpiry_eq (P Q : PortState) :
    P.joinExpiry Q.mayExpire =
      { P with
        expiryNow :=
          if Q.expiryNow = .byTimer ∧ Q.retransmit ≠ none ∨ Q.expiryNow = .joined then .joined else P.expiryNow } := by
  simp only [PortState.joinExpiry, PortState.mayExpire_iff]

/-- Report flags call for a round when frames were in the window and frames remain. -/
def callsForRound (info : Byte) (before after : PortState) : Prop :=
  info &&& 0x7F ≠ 0 ∧ before.window ≠ [] ∧ after.window ≠ []

theorem callsForRound_iff (info : Byte) (before after : PortState) :
    (carriesFlags info && !before.window.isEmpty && !after.window.isEmpty) = true ↔ callsForRound info before after := by
  simp only [Bool.and_eq_true, Bool.not_eq_true', List.isEmpty_eq_false_iff, carriesFlags_iff, callsForRound, and_assoc]

theorem ackInSession_of_calls (h : callsForRound info (s.port p) ((applyAck p seq s).port p)) :
    ackInSession p seq info s =
      callRound p ((applyAck p seq s).updPort p fun P => P.joinExpiry (s.port p).mayExpire) :=
  if_pos ((callsForRound_iff ..).2 h)

theorem ackInSession_of_not_calls (h : ¬callsForRound info (s.port p) ((applyAck p seq s).port p)) :
    ackInSession p seq info s = applyAck p seq s :=
  if_neg (mt (callsForRound_iff ..).1 h)

theorem callRound_of_below (h : (s.port p).attempts < 8) :
    callRound p s = s.updPort p fun P =>
      { P with
        attempts := P.attempts + 1
        round := if P.round = [] then P.window.map Slot.seq else P.round
        roundsDue := if P.round = [] then P.roundsDue else P.roundsDue + 1 } := by
  unfold callRound
  rw [if_pos (show (s.port p).attempts < Config.retryLimit from h), PortState.addRound_eq]

theorem callRound_of_limit (h : 8 ≤ (s.port p).attempts) :
    callRound p s =
      if (s.port p).refusing = true ∨ (s.port p).closing = true then orderlyEnd p s
      else sessionLoss p .retryLimit .due s :=
  if_neg (Nat.not_lt.2 h)

/-- Settles O34: an ACK frame by whether it calls for a round and whether the limit is reached, and an ANNOUNCE frame. -/
theorem ackAndAnnounceFramesAreTaken : Obligations.AckAndAnnounceFramesAreTaken := by
  refine ⟨fun p seq info payload s hr hm hc hs => ?_, fun p seq info payload s hr hm hc hs =>
    exec_announceFrameReceived hr hm hc hs⟩
  rw [exec_ackFrameReceived hr hm hc hs]
  have hwas : (s.updPort p PortState.heard).port p = (s.port p).heard := State.port_updPort_same ..
  intro t calls couldExpire u
  have hu : t.updPort p (fun P => P.joinExpiry ((s.updPort p PortState.heard).port p).mayExpire) = u := by
    rw [hwas]
    exact State.updPort_congr (PortState.joinExpiry_eq ..)
  have hport : u.port p = { t.port p with expiryNow := (u.port p).expiryNow } := by
    rw [State.port_updPort_same]
  have hcalls : callsForRound info ((s.updPort p PortState.heard).port p) (t.port p) ↔ calls := by
    rw [hwas]
    rfl
  have hround (h : calls) : ackInSession p seq info (s.updPort p PortState.heard) = callRound p u :=
    (ackInSession_of_calls (hcalls.2 h)).trans (congrArg (callRound p) hu)
  refine ⟨fun h => ?_, fun h hbelow => ?_, fun h hlimit => ?_⟩
  · rw [ackInSession_of_not_calls (mt hcalls.1 h)]
  · rw [hround h, callRound_of_below (by rw [hport]; exact hbelow)]
  · rw [hround h, callRound_of_limit (by rw [hport]; exact hlimit), hport]

end Sys2Proof.Machine

namespace Sys2Proof.Machine

variable {s : State} {p : Port} {P : PortState} {w : Slot}

/-! ## The transmitter and the link timers -/

theorem PortState.mayTransmit_iff (P : PortState) : P.mayTransmit = true ↔ P.session = .up ∨ P.session = .enteringDormant := by
  simp [PortState.mayTransmit]

theorem PortState.txFree_iff (P : PortState) : P.txFree = true ↔ P.tx = none := Option.isNone_iff_eq_none

theorem PortState.ackReady_iff (P : PortState) : P.ackReady = true ↔ P.ackDemand = true ∨ P.ackOwed = .due := by
  simp [PortState.ackReady]

/-! ### O35: ACK frames -/

theorem PortState.ackDelayPasses_of_waiting {left : Nat} (h : P.ackOwed = .waiting left) :
    P.ackDelayPasses = { P with ackOwed := .due } := by
  unfold PortState.ackDelayPasses
  rw [h]

theorem ReportFlags.info_eq (f : ReportFlags) :
    f.info =
      BitVec.ofNat 8 (f.headerBad.toNat + 2 * f.payloadBad.toNat + 4 * f.outOfOrder.toNat + 8 * f.tooLong.toNat +
        16 * f.unknownType.toNat + 32 * f.windowExceeded.toNat + 64 * f.rxFull.toNat) := by
  refine congrArg (BitVec.ofNat 8) ?_
  simp only [bitNumber]
  omega

theorem PortState.beginAck_eq (P : PortState) :
    P.beginAck =
      let sent :=
        { P with
          report := .clear, ackDemand := false, ackOwed := .clear
          tx := some { live := true, frame := { ftype := .ack, seq := P.expected - 1, payload := [], info := P.report.info } } }
      if P.session = .enteringDormant ∧ P.window = [] ∧ P.backlog = [] ∧ P.accepted = [] then
        { sent with session := .dormant, silence := none, retransmit := none }
      else sent := by
  unfold PortState.beginAck
  rw [PortState.fallAsleep_eq]
  simp only [and_self, and_true]
  rfl

/-- Settles O35: the delay's end, and the frame that begins when an acknowledgement is ready. -/
theorem ackFrameBegins : Obligations.AckFrameBegins := by
  refine fun p s hr => ⟨fun left h => taken_updPort hr (PortState.ackDelayPasses_of_waiting h), fun hs htx hready => ?_⟩
  have hmay : (s.port p).maySendAck = true := by
    simp only [PortState.maySendAck, Bool.and_eq_true]
    exact ⟨⟨(PortState.mayTransmit_iff _).2 hs, (PortState.txFree_iff _).2 htx⟩, (PortState.ackReady_iff _).2 hready⟩
  refine (taken_of_running hr _).trans ?_
  rw [if_pos hmay]
  refine congrArg Host.Outcome.next (State.updPort_congr ?_)
  rw [PortState.beginAck_eq, ReportFlags.info_eq]

/-! ### O36: DATA frames -/

theorem PortState.fallAsleep_of_window (h : P.window ≠ []) : P.fallAsleep = P := by
  rw [PortState.fallAsleep_eq]
  exact if_neg fun e => h e.2.1

theorem exec_transmitDataFrame (hr : s.running) (hs : (s.port p).session = .up ∨ (s.port p).session = .enteringDormant)
    (htx : (s.port p).tx = none) (hdemand : (s.port p).ackDemand = false) (howed : (s.port p).ackOwed ≠ .due)
    (hw : (s.port p).nextData = some w) : exec (.transmitDataFrame p) s = .next (s.updPort p (PortState.beginData w)) := by
  have hack : (s.port p).ackReady = false := by
    simp [PortState.ackReady, hdemand, howed]
  have hsend : (s.port p).dataToSend = some w := by
    unfold PortState.dataToSend
    rw [(PortState.mayTransmit_iff _).2 hs, (PortState.txFree_iff _).2 htx, hack, hw]
    rfl
  change execTransmitDataFrame p s = _
  unfold execTransmitDataFrame
  rw [taken_of_running hr, hsend]

theorem PortState.beginData_of_window (w : Slot) (h : P.window ≠ []) {rest : List Byte} {due : Nat}
    (hrest : P.roundNow.1.drop 1 = rest) (hdue : P.roundNow.2 = due) :
    P.beginData w =
      { P with
        tx := some { live := true, frame := { ftype := .data, seq := w.seq, info := P.expected - 1, payload := w.message } }
        ackOwed := .clear
        window := P.window.map fun x => if x.seq = w.seq ∧ x.sent = .waiting then { x with sent := .sending } else x
        round := rest, roundsDue := due } := by
  unfold PortState.beginData
  rw [PortState.fallAsleep_of_window (by simpa using h), hrest, hdue]
  rfl

theorem PortState.roundNow_of_round (h : P.round ≠ []) : P.roundNow = (P.round, P.roundsDue) := by
  unfold PortState.roundNow
  simp [h]

theorem PortState.roundNow_of_due {due : Nat} (h : P.round = []) (hdue : P.roundsDue = due + 1) :
    P.roundNow = (P.window.map Slot.seq, due) := by
  unfold PortState.roundNow
  simp [h, hdue]

theorem PortState.roundNow_of_none (h : P.round = []) (hdue : P.roundsDue = 0) : P.roundNow = ([], 0) := by
  unfold PortState.roundNow
  simp [h, hdue]

theorem PortState.nextData_of_round {front back : List Slot} {rest : List Byte} (h : P.roundNow.1 = w.seq :: rest)
    (hw : P.window = front ++ w :: back) (hfront : ∀ x ∈ front, x.seq ≠ w.seq) : P.nextData = some w := by
  unfold PortState.nextData
  rw [h, hw]
  exact find_first_match _ _ _ _ (fun x hx => beq_false_of_ne (hfront x hx)) (beq_self_eq_true w.seq)

theorem PortState.nextData_of_waiting {front back : List Slot} (h : P.roundNow.1 = [])
    (hw : P.window = front ++ w :: back) (hfront : ∀ x ∈ front, x.sent ≠ .waiting) (hsent : w.sent = .waiting) :
    P.nextData = some w := by
  unfold PortState.nextData
  rw [h, hw]
  exact find_first_match _ _ _ _ (fun x hx => beq_false_of_ne (hfront x hx)) (beq_iff_eq.2 hsent)

/-- Settles O36, by the round in progress, the round behind it and the frames that have not begun. -/
theorem dataFrameBegins : Obligations.DataFrameBegins := by
  intro p w s hr hs htx hdemand howed begins
  have hbegins (rest : List Byte) (due : Nat) (front back : List Slot) (hwindow : (s.port p).window = front ++ w :: back)
      (hnext : (s.port p).nextData = some w) (hrest : (s.port p).roundNow.1.drop 1 = rest)
      (hdue : (s.port p).roundNow.2 = due) : begins rest due := by
    refine (exec_transmitDataFrame hr hs htx hdemand howed hnext).trans (congrArg Host.Outcome.next (State.updPort_congr ?_))
    exact PortState.beginData_of_window w (by rw [hwindow]; simp) hrest hdue
  refine ⟨fun front back hwindow hfront rest hround => ?_, fun back due hwindow hround hdue => ?_,
    fun front back hwindow hfront hsent hround hdue => ?_⟩
  · have hnow := PortState.roundNow_of_round (P := s.port p) (by rw [hround]; exact List.cons_ne_nil _ _)
    rw [hround] at hnow
    exact hbegins _ _ front back hwindow (PortState.nextData_of_round (by rw [hnow]) hwindow hfront) (by rw [hnow]; rfl)
      (by rw [hnow])
  · have hnow := PortState.roundNow_of_due hround hdue
    rw [hwindow, List.map_cons] at hnow
    exact hbegins _ _ [] back hwindow (PortState.nextData_of_round (front := []) (by rw [hnow]) hwindow nofun)
      (by rw [hnow]; rfl) (by rw [hnow])
  · have hnow := PortState.roundNow_of_none hround hdue
    exact hbegins _ _ front back hwindow (PortState.nextData_of_waiting (by rw [hnow]) hwindow hfront hsent)
      (by rw [hnow]; rfl) (by rw [hnow])

/-! ### O37: the end of a frame -/

theorem exec_transmit_of_busy (h : (s.port p).txFree = false) :
    exec (.transmitAckFrame p) s = .next s ∧ exec (.transmitDataFrame p) s = .next s ∧ exec (.announce p) s = .next s := by
  refine ⟨taken_of_same (if_neg ?_), ?_, taken_of_same (if_neg ?_)⟩
  · simp [PortState.maySendAck, h]
  · have hnone : (s.port p).dataToSend = none := by simp [PortState.dataToSend, h]
    change execTransmitDataFrame p s = _
    unfold execTransmitDataFrame
    exact taken_of_same (by rw [hnone])
  · simp [PortState.mayAnnounce, h]

theorem PortState.endFrame_of_tx {x : Transmission} (h : P.tx = some x) :
    P.endFrame =
      if x.live ∧ x.frame.ftype = .data then PortState.endData x.frame.seq { P with tx := none } else { P with tx := none } := by
  unfold PortState.endFrame
  rw [h]

theorem map_finish_of_unique {front back : List Slot} (h : ∀ y ∈ front ++ back, y.seq ≠ w.seq) :
    (front ++ w :: back).map (Slot.finish w.seq) = front ++ { w with sent := .sent } :: back := by
  rw [List.map_append, List.map_cons, map_finish_of_absent _ _ fun y hy => h y (List.mem_append_left _ hy),
    map_finish_of_absent _ _ fun y hy => h y (List.mem_append_right _ hy), Slot.finish, if_pos rfl]

theorem head_seq_of_unique {front back : List Slot} (h : ∀ y ∈ front ++ back, y.seq ≠ w.seq) :
    (front ++ w :: back).head?.map Slot.seq = some w.seq ↔ front = [] := by
  cases front with
  | nil => simp
  | cons y front => simpa using h y (List.mem_cons_self ..)

/-- The first end of the reply to DEVICE-RESET, in a window with one frame of this number. -/
theorem any_resetReply_of_unique {front back : List Slot} (h : ∀ y ∈ front ++ back, y.seq ≠ w.seq) :
    ((front ++ w :: back).any fun x => x.seq == w.seq && x.role == .deviceReset && x.sent == .sending) = true ↔
      w.role = .deviceReset ∧ w.sent = .sending := by
  simp only [List.any_eq_true, Bool.and_eq_true, beq_iff_eq]
  constructor
  · rintro ⟨x, hx, ⟨hseq, hrole⟩, hsent⟩
    obtain hx | rfl | hx := (by simpa using hx : x ∈ front ∨ x = w ∨ x ∈ back)
    · exact absurd hseq (h x (List.mem_append_left _ hx))
    · exact ⟨hrole, hsent⟩
    · exact absurd hseq (h x (List.mem_append_right _ hx))
  · exact fun ⟨hrole, hsent⟩ => ⟨w, List.mem_append_right _ (List.mem_cons_self ..), ⟨rfl, hrole⟩, hsent⟩

theorem PortState.endData_of_unique {front back : List Slot} (hw : P.window = front ++ w :: back)
    (h : ∀ y ∈ front ++ back, y.seq ≠ w.seq) :
    P.endData w.seq =
      { P with
        window := front ++ { w with sent := .sent } :: back
        retransmit := if front = [] then some (P.params.retransmit * 10000) else P.retransmit
        expiryNow := if front = [] then .byTimer else P.expiryNow
        resetTimer :=
          if w.role = .deviceReset ∧ w.sent = .sending ∧ P.resetPending = true ∧ P.resetTimer = none then some 100000
          else P.resetTimer } := by
  rw [PortState.endData_eq, hw, map_finish_of_unique h]
  simp only [head_seq_of_unique h, any_resetReply_of_unique h, and_assoc]
  rfl

/-- Settles O37: a busy transmitter, the end of a frame without a further effect, and the end of a DATA frame. -/
theorem frameEndStartsItsTimers : Obligations.FrameEndStartsItsTimers := by
  refine fun p x s hr htx => ⟨exec_transmit_of_busy ?_, fun h => taken_updPort hr ?_,
    fun hlive hdata front w back hwindow hseq hother => taken_updPort hr ?_⟩
  · simp [PortState.txFree, htx]
  · rw [PortState.endFrame_of_tx htx]
    refine if_neg fun ⟨hlive, hdata⟩ => ?_
    exact h.elim (fun e => Bool.noConfusion (e.symm.trans hlive)) fun e => e hdata
  · rw [PortState.endFrame_of_tx htx, if_pos ⟨hlive, hdata⟩, ← hseq]
    exact PortState.endData_of_unique (P := { s.port p with tx := none }) hwindow hother

/-! ### O38: the retransmit and silence timers -/

theorem retransmitExpires_of_expiry (h : (s.port p).mayExpire = true) (hw : (s.port p).window ≠ []) :
    retransmitExpires p s = callRound p (s.updPort p fun P => { P with retransmit := none, expiryNow := .byTimer }) :=
  if_pos ⟨h, hw⟩

theorem exec_silenceExpiry {left : Nat} (hr : s.running) (h : (s.port p).silence = some left) :
    exec (.silenceExpiry p) s = .next (if (s.port p).heardNow = true then s else sessionLoss p .silence .due s) := by
  refine (taken_of_running hr _).trans ?_
  rw [h]
  cases (s.port p).heardNow <;> rfl

/-- Settles O38: an expiry is a round called for, and the silence timer's is a loss. -/
theorem linkTimersMakeRoundsAndEndSessions : Obligations.LinkTimersMakeRoundsAndEndSessions := by
  refine ⟨fun p s _ h => taken_of_same (if_neg fun e => ?_), fun p s hr h hw => ?_, fun p left s hr h => ?_⟩
  · rw [PortState.not_mayExpire_of_precluded h] at e
    exact Bool.noConfusion e.1
  · intro t
    have hmay : (s.port p).mayExpire = true :=
      (PortState.mayExpire_iff _).2 (h.imp_left fun ⟨htimer, left, hleft⟩ => ⟨htimer, hleft ▸ Option.some_ne_none left⟩)
    have hexec : exec (.retransmitTimeout p) s = .next (callRound p t) :=
      (taken_of_running hr _).trans (congrArg Host.Outcome.next (retransmitExpires_of_expiry hmay hw))
    have hport : t.port p = { s.port p with retransmit := none, expiryNow := .byTimer } := State.port_updPort_same ..
    refine ⟨fun hbelow => ?_, fun hlimit => ?_⟩
    · rw [hexec, callRound_of_below (by rw [hport]; exact hbelow)]
    · rw [hexec, callRound_of_limit (by rw [hport]; exact hlimit), hport]
      exact ⟨fun hends => by rw [if_pos hends], fun hrefusing hclosing => by simp [hrefusing, hclosing]⟩
  · rw [exec_silenceExpiry hr h]
    exact ⟨fun hn => by rw [hn]; rfl, fun hh => by rw [if_pos hh]⟩

end Sys2Proof.Machine

namespace Sys2Proof.Machine

variable {s : State} {p : Port} {P : PortState}

/-! ## How sessions end

### O39: a link break -/

theorem PortState.seeMark_of_break (h : P.breakReported = true) :
    P.seeMark =
      { P with
        breakReported := false, spaceTime := 0, announce := if P.announce = .suspended then .due else P.announce } :=
  if_pos h

/-- With no OPEN accepted, none is taken while the line stays at space (R155). -/
theorem takeOpen_of_space (hb : (s.port p).breakReported = true) (ha : (s.port p).accepted = []) (seq : Byte)
    (rest : List Byte) : takeOpen p seq rest s = none := by
  unfold takeOpen
  rw [ha]
  exact if_pos (.inl hb)

theorem exec_openSession_of_none {seq : Byte} {rest : List Byte} (h : takeOpen p seq rest s = none) :
    exec (.openSession p seq rest) s = .next s := by
  change execOpenSession p seq rest s = _
  unfold execOpenSession
  exact taken_of_same (by rw [h])

theorem exec_linkBreak (hr : s.running) (p : Port) :
    exec (.linkBreak p) s =
      .next (if (s.port p).breakReported then s else breakSession p (s.updPort p PortState.seeBreak)) := by
  change execLinkBreak p s = _
  exact taken_of_running hr _

theorem breakSession_of_closed (h : (s.port p).session = .closed) :
    breakSession p s = s.updPort p (PortState.closed .suspended) := by
  simp [breakSession, PortState.hasSession, h]

theorem breakSession_of_refusing (h : (s.port p).session ≠ .closed) (hr : (s.port p).refusing = true) :
    breakSession p s = endOrderly .suspended p s := by
  simp [breakSession, PortState.hasSession, h, hr]

theorem breakSession_of_session (h : (s.port p).session ≠ .closed) (hr : (s.port p).refusing = false) :
    breakSession p s = sessionLoss p .linkBreak .suspended s := by
  simp [breakSession, PortState.hasSession, h, hr]

/-- Settles O39: nothing is received while a break stands, and a new break finds the port CLOSED, refusing or in session. -/
theorem linkBreakAndItsEnd : Obligations.LinkBreakAndItsEnd := by
  refine fun p s hr => ⟨fun hb => ?_, fun hb => ⟨fun hc => ?_, fun hs href => ?_, fun hs href => ?_⟩⟩
  · refine ⟨(exec_linkBreak hr p).trans (by rw [if_pos hb]), taken_updPort hr (PortState.seeMark_of_break hb), received_of_space hb _,
      received_of_space hb _, fun bytes => ⟨received_of_space hb _, fun t => received_of_space hb _⟩,
      fun seq info payload => ⟨received_of_space hb _, received_of_space hb _, received_of_space hb _⟩, fun hhunt => ?_,
      fun ha seq rest => exec_openSession_of_none (takeOpen_of_space hb ha seq rest)⟩
    exact (exec_passesOver hhunt).symm
  all_goals
    have hport : (s.updPort p PortState.seeBreak).port p = (s.port p).seeBreak := State.port_updPort_same ..
    rw [exec_linkBreak hr, if_neg (Bool.eq_false_iff.1 hb)]
  · rw [breakSession_of_closed (by rw [hport]; exact hc)]
    rfl
  · rw [breakSession_of_refusing (by rw [hport]; exact hs) (by rw [hport]; exact href)]
    rfl
  · rw [breakSession_of_session (by rw [hport]; exact hs) (by rw [hport]; exact href)]
    rfl

/-! ### O41: an orderly end -/

theorem PortState.closed_routeNotices (schedule : Schedule) (P : PortState) (r : RouteNo) :
    (P.closed schedule).routeNotices[r.val] = .none := Vector.getElem_replicate _

theorem PortState.closed_actionNotices (schedule : Schedule) (P : PortState) (n : ActionNo) :
    (P.closed schedule).actionNotices[n.val] = .none := Vector.getElem_replicate _

theorem PortState.closed_told (schedule : Schedule) (P : PortState) (n : ActionNo) :
    (P.closed schedule).told[n.val] = false := Vector.getElem_replicate _

/-- The routes after their batches have returned, route by route. -/
theorem returnBatches_eq (p : Port) (s : State) :
    returnBatches p s =
      { s with
        routes := Vector.ofFn fun r : RouteNo => if (s.route r).owner = some p then (s.route r).returnBatch else s.route r } := by
  unfold returnBatches
  rfl

theorem endOrderly_eq (schedule : Schedule) (p : Port) (s : State) :
    endOrderly schedule p s =
      if (s.port p).resetPending = true then softReset (returnBatches p (s.updPort p (PortState.closed schedule)))
      else returnBatches p (s.updPort p (PortState.closed schedule)) := by
  have hport : (returnBatches p (s.updPort p (PortState.closed schedule))).port p = (s.port p).closed schedule :=
    State.port_updPort_same p (PortState.closed schedule) s
  unfold endOrderly resetIfPending
  rw [hport]
  rfl

/-- Settles O41: the port field by field, and then the routes and the soft reset that an orderly end releases. -/
theorem orderlyEndClosesThePort : Obligations.OrderlyEndClosesThePort := by
  refine ⟨fun schedule P => ?_, fun p schedule s => ?_⟩
  · exact ⟨rfl, rfl, rfl, rfl, rfl, rfl, rfl, rfl, rfl, rfl, rfl, rfl, rfl, rfl, rfl, rfl, P.closed_routeNotices schedule,
      fun n => ⟨P.closed_actionNotices schedule n, P.closed_told schedule n⟩, rfl, rfl, rfl, rfl, rfl, rfl, rfl, rfl, rfl,
      rfl, rfl⟩
  · intro t u
    have hu : returnBatches p t = u := by
      rw [returnBatches_eq]
      simp only [Route.returnBatch_eq]
      rfl
    exact ⟨rfl, by rw [endOrderly_eq, hu]⟩

end Sys2Proof.Machine

namespace Sys2Proof.Machine

variable {s : State} {p : Port}

/-! ## The Delivery Scheduler

### O23: replies and flagged notices -/

section Placed

variable (hr : s.running)

include hr

theorem exec_placeReply {q : Reply} {rest : List Reply} (hc : s.choice p = some (.reply q rest)) :
    exec (.placeReply p) s = .next (placeReply p q rest s) := by
  change execPlaceReply p s = _
  unfold execPlaceReply
  rw [taken_of_running hr, hc]

theorem exec_routeLost {r : RouteNo} (hc : s.choice p = some (.routeNotice r .lost)) :
    exec (.routeLost p) s = .next (placeRouteNotice p r (routeLostMessage r s) s) := by
  change execRouteLost p s = _
  unfold execRouteLost
  rw [taken_of_running hr, hc]

theorem exec_routeGained {r : RouteNo} (hc : s.choice p = some (.routeNotice r .gained)) :
    exec (.routeGained p) s = .next (placeRouteNotice p r (routeGainedMessage p r s) s) := by
  change execRouteGained p s = _
  unfold execRouteGained
  rw [taken_of_running hr, hc]

theorem exec_actionPending {n : ActionNo} (hc : s.choice p = some (.actionNotice n .pending)) :
    exec (.actionPending p) s = .next (placeActionNotice p n true (actionPendingMessage n s) s) := by
  change execActionPending p s = _
  unfold execActionPending
  rw [taken_of_running hr, hc]

theorem exec_actionEnded {n : ActionNo} (hc : s.choice p = some (.actionNotice n .ended)) :
    exec (.actionEnded p) s = .next (placeActionNotice p n false (actionEndedMessage n s) s) := by
  change execActionEnded p s = _
  unfold execActionEnded
  rw [taken_of_running hr, hc]

end Placed

/-- A port with the reply in its window is not quiet. -/
theorem placeReply_eq (p : Port) (q : Reply) (rest : List Reply) (s : State) :
    placeReply p q rest s = s.updPort p fun P => PortState.place q.message q.role { P with backlog := rest } :=
  State.updPort_congr (PortState.fallAsleep_of_window (by simp [PortState.place]))

theorem Action.graceRemaining_of_grace {a : Action} {left : Nat} (h : a.state = .grace left) :
    a.graceRemaining = (left + 99999) / 100000 := by
  unfold Action.graceRemaining
  rw [h]
  rfl

theorem actionPendingMessage_of_grace {n : ActionNo} {left : Nat} (h : (s.action n).state = .grace left) :
    actionPendingMessage n s =
      [0x43, 0, byte n.val, (s.action n).graceNo, triggerCode (s.action n).cfg.trigger, byte ((left + 99999) / 100000)] := by
  unfold actionPendingMessage
  rw [Action.graceRemaining_of_grace h]

theorem actionEndedMessage_of_end {n : ActionNo} {g : GraceEnd} (h : (s.action n).graceEnd = some g) :
    actionEndedMessage n s =
      [0x44, 0, byte n.val, (s.action n).graceNo, if g.outcome = .fired then 1 else 2, ownerCode g.endedBy] := by
  have hcode : graceOutcomeCode g.outcome = if g.outcome = .fired then 1 else 2 := by cases g.outcome <;> rfl
  unfold actionEndedMessage
  rw [h, ← hcode]
  rfl

theorem placeActionNotice_untold (p : Port) (n : ActionNo) (message : List Byte) (s : State) :
    placeActionNotice p n false message s =
      s.updPort p fun P =>
        PortState.place message .plain { P with actionNotices := P.actionNotices.set n.val .none } := by
  unfold placeActionNotice
  simp only [Bool.false_or, Vector.set_getElem_self]

theorem routeGainedMessage_eq (p : Port) (r : RouteNo) (s : State) :
    routeGainedMessage p r s =
      [0x41, 0, byte r.val, 1, portCode (otherPort p), s.routeCondition r, byte (s.route r).queue.length] ++
        leBytes 2 (s.route r).lost := by
  rw [← ownerCode_some]
  rfl

/-- Settles O23: what each command places, with the values of its moment. -/
theorem repliesAndNoticesArePlaced : Obligations.RepliesAndNoticesArePlaced := by
  refine ⟨fun p q rest s hr hc => ?_, fun p s hr => ⟨fun r hc => ?_, fun r hc => ?_, fun n left hc hg => ?_,
    fun n g hc hg => ?_⟩⟩
  · rw [exec_placeReply hr hc, placeReply_eq]
    rfl
  · exact exec_routeLost hr hc
  · rw [exec_routeGained hr hc, routeGainedMessage_eq]
    rfl
  · rw [exec_actionPending hr hc, actionPendingMessage_of_grace hg]
    rfl
  · rw [exec_actionEnded hr hc, actionEndedMessage_of_end hg, placeActionNotice_untold]
    rfl

end Sys2Proof.Machine

namespace Sys2Proof.Machine

variable {s : State} {p : Port} {tag b : Byte}

/-! ## What the reading requests show

### O46: codes, PING, STATUS, SOURCE-GET, ROUTE-GET and ACTION-GET -/

section RouteState

variable {t : Route}

theorem Route.state_of_stalled (h : t.stalled = true) : t.state = .stalled := if_pos h

theorem Route.state_of_offered (h : t.stalled = false) (ho : ∃ x ∈ t.queue, x.state = .offered) : t.state = .inService := by
  unfold Route.state
  rw [if_neg (Bool.eq_false_iff.1 h), if_pos (by simpa using ho)]

theorem Route.state_of_empty (h : t.stalled = false) (hq : t.queue = []) : t.state = .idle := by
  unfold Route.state
  rw [if_neg (Bool.eq_false_iff.1 h), hq]
  rfl

theorem Route.state_of_pending (h : t.stalled = false) (hq : t.queue ≠ []) (hp : ∀ x ∈ t.queue, x.state = .pending) :
    t.state = .ready := by
  have hnone : ¬(t.queue.any fun x => x.state == .offered) = true := by
    simp only [List.any_eq_true, beq_iff_eq, not_exists, not_and]
    exact fun x hx => by rw [hp x hx]; exact RecState.noConfusion
  unfold Route.state
  rw [if_neg (Bool.eq_false_iff.1 h), if_neg hnone, if_neg (by simpa using hq)]

end RouteState

/-- The condition byte of a route, by the ports that count as absent (section 10.3). -/
def Route.conditionByte (absent : Port → Bool) (t : Route) : Byte :=
  byte (t.state.code +
    (match t.owner with
      | none => 16
      | some q => if absent q then 32 else 0) +
    if t.cfg.masked then 64 else 0)

theorem State.routeCondition_eq {absent : Port → Bool} (h : ∀ q, absent q = ((s.port q).session != .up)) (r : RouteNo) :
    s.routeCondition r = (s.route r).conditionByte absent := by
  have howner : 16 * (s.noOwner r).toNat + 32 * (s.ownerAbsent r).toNat =
      match (s.route r).owner with
      | none => 16
      | some q => if absent q then 32 else 0 := by
    unfold State.noOwner State.ownerAbsent
    cases (s.route r).owner with
    | none => rfl
    | some q =>
      dsimp only
      rw [h]
      cases (s.port q).session != .up <;> rfl
  have hmasked : 64 * (s.route r).cfg.masked.toNat = if (s.route r).cfg.masked then 64 else 0 := by
    cases (s.route r).cfg.masked <;> rfl
  unfold State.routeCondition Route.conditionByte
  rw [Nat.add_assoc _ (16 * _), howner, hmasked]

/-! PING and STATUS -/

theorem State.sessionNo_afterTake (p : Port) (s : State) : ((s.afterTake p).port p).sessionNo = (s.port p).sessionNo := by
  cases p <;> rfl

theorem exec_ping (h : Takes p 0x03 [tag] s) :
    exec (.ping p [tag]) s = .next (s.answered p ([0x83, tag, 0x00] ++ leBytes 2 (s.port p).sessionNo.toNat)) := by
  refine (taken_request_tag h (pingWith p)).trans ?_
  rw [← State.sessionNo_afterTake p s]
  rfl

theorem State.session_seenBy (p q : Port) (s : State) :
    ((s.seenBy p).port q).session = if q = p then .up else (s.port q).session := by
  cases p <;> cases q <;> rfl

theorem State.seenBy_absent (p q : Port) (s : State) :
    decide (q ≠ p ∧ (s.port q).session ≠ .up) = ((((s.afterTake p).seenBy p).port q).session != .up) := by
  rw [State.session_seenBy, State.session_afterTake]
  by_cases h : q = p
  · simp [h]
  · by_cases hs : (s.port q).session = .up <;> simp [h, hs]

theorem State.seenBy_shown (p q : Port) (s : State) :
    sessionCode (((s.afterTake p).seenBy p).port q).session = if q = p then 1 else sessionCode (s.port q).session := by
  rw [State.session_seenBy, State.session_afterTake]
  split <;> rfl

theorem State.statusFields_seenBy (p : Port) (s : State) :
    ((s.afterTake p).seenBy p).statusFields =
      [if Port.A = p then 1 else sessionCode (s.port .A).session, if Port.B = p then 1 else sessionCode (s.port .B).session,
        byte s.store.freeGeneral, byte s.store.freeReserve] ++
      allRoutes.flatMap fun r =>
        [(s.route r).conditionByte fun q => q ≠ p ∧ (s.port q).session ≠ .up, ownerCode (s.route r).owner,
          byte (s.route r).queue.length] ++ leBytes 2 (s.route r).lost := by
  have hstatus (r : RouteNo) : ((s.afterTake p).seenBy p).routeStatus r =
      [(s.route r).conditionByte fun q => q ≠ p ∧ (s.port q).session ≠ .up, ownerCode (s.route r).owner,
        byte (s.route r).queue.length] ++ leBytes 2 (s.route r).lost := by
    unfold State.routeStatus
    rw [State.routeCondition_eq fun q => State.seenBy_absent p q s]
    rfl
  unfold State.statusFields
  rw [State.seenBy_shown, State.seenBy_shown, funext hstatus]
  rfl

theorem exec_status (h : Takes p 0x05 [tag] s) :
    exec (.status p [tag]) s =
      .next (s.answered p ([0x85, tag, 0x00] ++ ((s.afterTake p).seenBy p).statusFields)) :=
  taken_request_tag h (statusWith p)

/-! SOURCE-GET -/

theorem exec_sourceGet (h : Takes p 0x11 [tag, b] s) :
    exec (.sourceGet p [tag, b]) s = .next (checked p sourceGetCode tag (readSource b)
      (fun i s => answerOk p sourceGetCode tag (s.sourceFields i) s) (s.afterTake p)) :=
  taken_request_tag h (sourceGetWith p)

theorem SourceState.openSeq_toNat (x : SourceState) :
    x.openSeq.toNat =
      match x with
      | .raised (some q) => q.toNat
      | _ => 0 := by
  cases x with
  | raised q => cases q <;> rfl
  | _ => rfl

theorem SourceState.holdoffRemaining_eq (x : SourceState) :
    x.holdoffRemaining =
      match x with
      | .holdoff left => (left + 9999) / 10000
      | _ => 0 := by
  cases x <;> rfl

theorem State.sourceLine_of_line {i : SourceNo} (h : i.val < 48) :
    s.sourceLine i = ((s.line ⟨i.val, h⟩).isSettled, (s.line ⟨i.val, h⟩).level) := by
  unfold State.sourceLine
  rw [lineOf_of_lt h]

theorem State.sourceLine_of_internal {i : SourceNo} (h : ¬i.val < 48) : s.sourceLine i = (false, false) := by
  unfold State.sourceLine
  rw [lineOf_of_not_lt h]

theorem State.sourceFields_eq {i : SourceNo} (hb : b.toNat = i.val) (s : State) :
    s.sourceFields i =
      [b, modeCode (s.source i).cfg.mode, filterCode (s.source i).cfg.filter, routeCode (s.source i).cfg.route,
        flagCode (s.source i).cfg.coalesce, byte (s.source i).cfg.holdoff, sourceStateCode (s.source i).state,
        if h : i.val < 48 then flagCode (s.line ⟨i.val, h⟩).isSettled else 0,
        if h : i.val < 48 then flagCode (s.line ⟨i.val, h⟩).level else 0] ++
      leBytes 4 (match (s.source i).state with
        | .raised (some q) => q.toNat
        | _ => 0) ++
      [byte (match (s.source i).state with
        | .holdoff left => (left + 9999) / 10000
        | _ => 0)] := by
  unfold State.sourceFields
  dsimp only
  rw [SourceState.openSeq_toNat, SourceState.holdoffRemaining_eq, byte_of_toNat hb]
  by_cases h : i.val < 48
  · rw [State.sourceLine_of_line h, dif_pos h, dif_pos h]
  · rw [State.sourceLine_of_internal h, dif_neg h, dif_neg h]
    rfl

/-! ROUTE-GET -/

theorem exec_routeGet (h : Takes p 0x21 [tag, b] s) :
    exec (.routeGet p [tag, b]) s = .next (checked p routeGetCode tag (readRoute b)
      (fun r s => answerOk p routeGetCode tag (s.routeFields r) s) (s.afterTake p)) :=
  taken_request_tag h (routeGetWith p)

theorem policyCode_eq (x : Policy) : policyCode x = if x = .dropNew then 0 else 1 := by cases x <;> rfl

theorem offeredCount_eq (queue : List Rec) : offeredCount queue = (queue.filter fun x => x.state = .offered).length := by
  unfold offeredCount
  exact congrArg List.length (List.filter_congr fun x _ => beq_eq_decide ..)

theorem Route.headSeq_toNat (t : Route) :
    t.headSeq.toNat =
      match t.queue with
      | x :: _ => x.seq.toNat
      | [] => 0 := by
  unfold Route.headSeq
  cases t.queue <;> rfl

theorem Route.tagAndAttempts_eq (t : Route) :
    [t.currentTag, byte t.attemptCount] =
      match t.batch with
      | some b => [b.tag, byte b.attempts]
      | none => [0, 0] := by
  unfold Route.currentTag Route.attemptCount
  cases t.batch <;> rfl

theorem State.routeFields_eq {r : RouteNo} (hb : b.toNat = r.val) (s : State) :
    s.routeFields r =
      [b, byte (s.route r).cfg.priority, byte (s.route r).cfg.depth, if (s.route r).cfg.policy = .dropNew then 0 else 1,
        byte (s.route r).cfg.batchMax, byte (s.route r).cfg.serviceTimeout, byte (s.route r).cfg.retries,
        flagCode (s.route r).cfg.wake, flagCode (s.route r).cfg.failover, flagCode (s.route r).cfg.takeover,
        flagCode (s.route r).cfg.masked, ownerCode (s.route r).owner,
        (s.route r).conditionByte fun q => (s.port q).session ≠ .up, byte (s.route r).queue.length,
        byte ((s.route r).queue.filter fun x => x.state = .offered).length] ++
      leBytes 4 (match (s.route r).queue with
        | x :: _ => x.seq.toNat
        | [] => 0) ++ leBytes 2 (s.route r).lost ++
      match (s.route r).batch with
      | some b => [b.tag, byte b.attempts]
      | none => [0, 0] := by
  have habsent (q : Port) : decide ((s.port q).session ≠ .up) = ((s.port q).session != .up) := by
    simp [bne, beq_eq_decide]
  unfold State.routeFields RouteConfig.bytes
  dsimp only
  rw [State.routeCondition_eq habsent, policyCode_eq, offeredCount_eq, Route.headSeq_toNat, Route.tagAndAttempts_eq,
    byte_of_toNat hb]
  rfl

/-! ACTION-GET -/

theorem exec_actionGet (h : Takes p 0x31 [tag, b] s) :
    exec (.actionGet p [tag, b]) s = .next (checked p actionGetCode tag (readOutput b)
      (fun n s => answerOk p actionGetCode tag (s.actionFields n) s) (s.afterTake p)) :=
  taken_request_tag h (actionGetWith p)

theorem Action.graceRemaining_eq (a : Action) :
    a.graceRemaining =
      match a.state with
      | .grace left => (left + 99999) / 100000
      | _ => 0 := by
  unfold Action.graceRemaining
  cases a.state <;> rfl

theorem Action.pulseRemaining_eq (a : Action) :
    a.pulseRemaining =
      match a.state with
      | .fired _ (some left) => (left + 999) / 1000
      | _ => 0 := by
  unfold Action.pulseRemaining
  cases a.state with
  | fired cause pulse => cases pulse <;> rfl
  | _ => rfl

theorem stateCauseCode_eq (x : ActionState) :
    stateCauseCode x =
      match x with
      | .fired cause _ => fireCauseCode cause
      | _ => 0 := by
  cases x <;> rfl

theorem State.actionFields_eq {n : ActionNo} (hb : b.toNat = n.val) (s : State) :
    s.actionFields n =
      [b, triggerCode (s.action n).cfg.trigger, actionKindCode (s.action n).cfg.kind, byte (s.action n).cfg.grace,
        shapeCode (s.action n).cfg.shape, widthCode (s.action n).cfg.width, flagCode (s.action n).cfg.activeHigh,
        flagCode (s.action n).cfg.pushPull, actionStateCode (s.action n).state, (s.action n).graceNo,
        byte (match (s.action n).state with
          | .grace left => (left + 99999) / 100000
          | _ => 0)] ++
      leBytes 2 (match (s.action n).state with
        | .fired _ (some left) => (left + 999) / 1000
        | _ => 0) ++
      [match (s.action n).state with
        | .fired cause _ => fireCauseCode cause
        | _ => 0,
      byte ((actionNoticeCode (s.port .A).actionNotices[n.val]).toNat +
        4 * (actionNoticeCode (s.port .B).actionNotices[n.val]).toNat)] := by
  unfold State.actionFields ActionConfig.bytes
  dsimp only
  rw [Action.graceRemaining_eq, Action.pulseRemaining_eq, stateCauseCode_eq, byte_of_toNat hb]
  rfl

theorem State.actionNotices_afterTake (p q : Port) (s : State) :
    ((s.afterTake p).port q).actionNotices = (s.port q).actionNotices := by
  cases p <;> cases q <;> rfl

/-- Settles O46: the codes, and each request by its range check and its fields. -/
theorem tablesAreRead : Obligations.TablesAreRead := by
  refine ⟨?_, fun p tag s => ⟨exec_ping, fun h => ?_, fun b h => ⟨fun hbad => ?_, fun i hb => ?_⟩,
    fun b h => ⟨fun hbad => ?_, fun r hb => ?_⟩, fun b h => ⟨fun hbad => ?_, fun n hb => ?_⟩⟩⟩
  · exact ⟨rfl, rfl, rfl, rfl, rfl, rfl, rfl, rfl, rfl, rfl, rfl, rfl, rfl, rfl, rfl, rfl, ⟨rfl, rfl, rfl⟩,
      ⟨fun _ => rfl, rfl⟩, ⟨fun _ => rfl, rfl⟩, ⟨rfl, rfl, fun _ => rfl, fun _ => rfl⟩, ⟨rfl, fun _ => rfl, fun _ _ => rfl⟩,
      fun t => ⟨Route.state_of_stalled, Route.state_of_offered, Route.state_of_empty, Route.state_of_pending⟩⟩
  · rw [exec_status h, State.statusFields_seenBy]
    rfl
  · rw [exec_sourceGet h, readSource_bad hbad]
    rfl
  · rw [exec_sourceGet h, readSource_ok hb]
    exact congrArg (fun fields => Host.Outcome.next (s.answered p ([0x91, tag, 0x00] ++ fields)))
      (State.sourceFields_eq hb (s.afterTake p))
  · rw [exec_routeGet h, readRoute_bad hbad]
    rfl
  · rw [exec_routeGet h, readRoute_ok hb]
    refine (congrArg (fun fields => Host.Outcome.next (s.answered p ([0xA1, tag, 0x00] ++ fields)))
      (State.routeFields_eq hb (s.afterTake p))).trans ?_
    simp only [State.session_afterTake]
    rfl
  · rw [exec_actionGet h, readOutput_bad hbad]
    rfl
  · rw [exec_actionGet h, readOutput_ok hb]
    refine (congrArg (fun fields => Host.Outcome.next (s.answered p ([0xB1, tag, 0x00] ++ fields)))
      (State.actionFields_eq hb (s.afterTake p))).trans ?_
    simp only [State.actionNotices_afterTake]
    rfl

end Sys2Proof.Machine

namespace Sys2Proof.Machine

variable {s : State} {p : Port} {P : PortState}

/-! ## Link sessions, dormancy and wake

### O49: OPEN -/

section Open

variable {seq tag : Byte} {rest fields : List Byte}

/-- An accepted OPEN is taken as any request is: it leaves the accepted ones (R162, R165). -/
theorem takeOpen_of_accepted {qs : List Request}
    (h : (s.port p).accepted = { seq := seq, payload := 0x01 :: rest } :: qs) :
    takeOpen p seq rest s = some (s.afterTake p) := by
  unfold takeOpen
  rw [h]
  exact if_pos ⟨rfl, rfl⟩

theorem State.afterTake_of_none (h : (s.port p).accepted = []) : s.afterTake p = s :=
  State.updPort_id (by rw [h, List.drop_nil, ← h])

/-- With none accepted the command is an OPEN just accepted: any in CLOSED, one that is no duplicate in a session (R144, R161). -/
theorem takeOpen_of_heard (ha : (s.port p).accepted = []) (hb : (s.port p).breakReported = false)
    (h : (s.port p).session = .closed ∨ duplicateSeq (s.port p).expected seq = false) :
    takeOpen p seq rest s = some (s.afterTake p) := by
  unfold takeOpen
  rw [ha, State.afterTake_of_none ha]
  refine if_neg fun hkept => ?_
  obtain hspace | ⟨hsession, hdup⟩ := hkept
  · exact Bool.noConfusion (hb.symm.trans hspace)
  · exact h.elim hsession fun hnew => Bool.noConfusion (hnew.symm.trans hdup)

theorem exec_openSession_of_some {u : State} (hr : s.running) (h : takeOpen p seq rest s = some u) :
    exec (.openSession p seq rest) s = .next (openTaken p seq rest u) := by
  change execOpenSession p seq rest s = _
  unfold execOpenSession
  rw [taken_of_running hr, h]

theorem endBeforeOpen_afterTake (p : Port) (s : State) :
    endBeforeOpen p (s.afterTake p) =
      if (s.port p).session = .closed then s.afterTake p else orderlyEnd p (s.afterTake p) := by
  unfold endBeforeOpen
  rw [State.session_afterTake]

theorem openTaken_cons (p : Port) (seq tag : Byte) (fields : List Byte) (s : State) :
    openTaken p seq (tag :: fields) s = openWith p seq tag fields (endBeforeOpen p s) := rfl

theorem openWith_error {r : Result} (h : readOpen fields = .error r) :
    openWith p seq tag fields s = s.updPort p (PortState.refuseOpen seq tag r) := by
  unfold openWith
  rw [h]

theorem openWith_ok {q : Params} (h : readOpen fields = .ok q) :
    openWith p seq tag fields s = s.updPort p (PortState.beginSession seq tag q s.store.nextSeq s.actions) := by
  unfold openWith
  rw [h]

/-- OPEN has five bytes after its tag (R162, R176). -/
theorem readOpen_of_length_ne (h : fields.length ≠ 5) : readOpen fields = .error .badLength := by
  unfold readOpen
  split
  · exact absurd rfl h
  · rfl

/-- An OPEN of another length has BAD_LENGTH, with 0 for a missing tag (R164, R176). -/
theorem openTaken_of_length_ne (h : rest.length ≠ 6) (p : Port) (seq : Byte) (s : State) :
    openTaken p seq rest s =
      (endBeforeOpen p s).updPort p (PortState.refuseOpen seq (rest.headD 0) .badLength) := by
  cases rest with
  | nil => rfl
  | cons tag fields =>
    rw [openTaken_cons, openWith_error (readOpen_of_length_ne fun hfive => h (congrArg (· + 1) hfive))]
    rfl

section Fields

variable {m0 m1 w limit timeout : Byte}

theorem readOpen_of_range (hm : 64 ≤ m0.toNat + 256 * m1.toNat ∧ m0.toNat + 256 * m1.toNat ≤ 1024)
    (hw : 1 ≤ w.toNat ∧ w.toNat ≤ 4) (ht : 1 ≤ timeout.toNat) :
    readOpen [m0, m1, w, limit, timeout] =
      .ok { maxPayload := m0.toNat + 256 * m1.toNat, window := w.toNat, silenceLimit := limit.toNat,
            retransmit := timeout.toNat } := by
  have htimeout : timeout.toNat ≤ 255 := Nat.le_of_lt_succ timeout.isLt
  simp only [readOpen, readParams, leNumber_two]
  rw [if_neg (by omega), readRange_ok hw, readRange_ok ⟨ht, htimeout⟩]
  rfl

/-- Each of the three range checks refuses with BAD_VALUE (R162, R175). -/
theorem readOpen_of_out_of_range
    (h : ¬(64 ≤ m0.toNat + 256 * m1.toNat ∧ m0.toNat + 256 * m1.toNat ≤ 1024 ∧ 1 ≤ w.toNat ∧ w.toNat ≤ 4 ∧
      1 ≤ timeout.toNat)) :
    readOpen [m0, m1, w, limit, timeout] = .error .badValue := by
  simp only [readOpen, readParams, leNumber_two]
  by_cases hm : m0.toNat + 256 * m1.toNat < 64 ∨ 1024 < m0.toNat + 256 * m1.toNat
  · rw [if_pos hm]
  rw [if_neg hm]
  by_cases hw : 1 ≤ w.toNat ∧ w.toNat ≤ 4
  · rw [readRange_ok hw, readRange_bad (l := 1) (h := 255) (b := timeout) (by omega)]
    rfl
  · rw [readRange_bad hw]
    rfl

end Fields

theorem PortState.refuseOpen_eq (seq tag : Byte) (r : Result) (P : PortState) :
    P.refuseOpen seq tag r =
      { P with
        expected := seq + 1, sendSeq := 1, closing := true, refusing := true, session := .up, announce := .stopped
        silence := none, params := { maxPayload := 64, window := 1, silenceLimit := 0, retransmit := 5 }
        ackOwed := if P.ackOwed = .clear then .waiting 1000 else P.ackOwed
        window := P.window ++ [{ seq := 0, message := [0x81, tag, r.code], role := .refusedOpen, sent := .waiting }] } := by
  rw [← AckOwed.set_eq]
  rfl

/-- The silence timer of a session that has just begun (R162, R167). -/
theorem PortState.listen_of_up (hs : P.session = .up) (hc : P.closing = false) (hn : P.silence = none) :
    P.listen =
      { P with silence := if P.params.silenceLimit = 0 then none else some (P.params.silenceLimit * 100000) } := by
  unfold PortState.listen
  by_cases hlimit : P.params.silenceLimit = 0
  · rw [if_neg fun hruns => hruns.2.1 hlimit, if_pos hlimit, ← hn]
  · rw [if_pos ⟨.inl hs, hlimit, hc⟩, if_neg hlimit]
    rfl

theorem PortState.beginSession_eq (seq tag : Byte) (q : Params) (nextSeq : Seq) (actions : Vector Action 16)
    (P : PortState) :
    P.beginSession seq tag q nextSeq actions =
      { P with
        expected := seq + 1, sendSeq := 0, sessionNo := P.sessionNo + 1, closing := false, refusing := false
        session := .up, announce := .stopped, params := q
        ackOwed := if P.ackOwed = .clear then .waiting 1000 else P.ackOwed
        silence := if q.silenceLimit = 0 then none else some (q.silenceLimit * 100000)
        backlog :=
          { role := .plain
            message := [0x81, tag, 0x00] ++ leBytes 2 (P.sessionNo + 1).toNat ++ [0x16, 0x48, 0x01] ++
              leBytes 4 nextSeq.toNat ++ [248, 8, 64] } :: P.backlog
        actionNotices := noticesAtOpen actions P.actionNotices } := by
  unfold PortState.beginSession
  rw [PortState.listen_of_up rfl rfl rfl, ← AckOwed.set_eq]
  rfl

/-- The notice flag of an action at OPEN, by the action's state (R120, R163). -/
theorem Action.noticeAtOpen_eq (a : Action) (notice : ActionNotice) :
    (if a.inGrace = true then .pending else notice) =
      match a.state with
      | .grace _ => .pending
      | _ => notice := by
  unfold Action.inGrace
  cases a.state <;> rfl

theorem noticesAtOpen_eq (s : State) (notices : Vector ActionNotice 16) :
    noticesAtOpen s.actions notices =
      Vector.ofFn fun n : ActionNo =>
        match (s.action n).state with
        | .grace _ => .pending
        | _ => notices[n.val] :=
  congrArg Vector.ofFn (funext fun n => (s.action n).noticeAtOpen_eq notices[n.val])

/-- Settles O49: how the OPEN is taken, and then the three outcomes of its length and its fields. -/
theorem openBeginsASession : Obligations.OpenBeginsASession := by
  intro p seq rest s hr e htakes t acked refused
  have htake : takeOpen p seq rest s = some (s.afterTake p) := by
    obtain ⟨qs, haccepted⟩ | ⟨hnone, hmark, hfresh⟩ := htakes
    · exact takeOpen_of_accepted haccepted
    · exact takeOpen_of_heard hnone hmark
        (hfresh.imp_right fun hnew => Bool.eq_false_iff.2 (mt (duplicateSeq_iff _ seq).1 hnew))
  have hexec := exec_openSession_of_some hr htake
  have ht : endBeforeOpen p (s.afterTake p) = t := endBeforeOpen_afterTake p s
  clear_value t
  have hrefused {tag : Byte} {r : Result}
      (h : openTaken p seq rest (s.afterTake p) = t.updPort p (PortState.refuseOpen seq tag r)) : refused tag r.code := by
    rw [funext (PortState.refuseOpen_eq seq tag r)] at h
    exact hexec.trans (congrArg Host.Outcome.next h)
  clear_value refused
  refine ⟨fun hlength => ?_, ?_⟩
  · exact hrefused (r := .badLength) (ht ▸ openTaken_of_length_ne hlength p seq _)
  rintro tag m0 m1 w limit timeout rfl m inRange
  rw [openTaken_cons, ht] at hexec hrefused
  refine ⟨fun hout => ?_, fun ⟨hlow, hhigh, hw1, hw4, htimeout⟩ => ?_⟩
  · exact hrefused (r := .badValue) (openWith_error (readOpen_of_out_of_range hout))
  · rw [hexec, openWith_ok (readOpen_of_range ⟨hlow, hhigh⟩ ⟨hw1, hw4⟩ htimeout)]
    refine congrArg Host.Outcome.next (State.updPort_congr ?_)
    have hlimit : limit.toNat = 0 ↔ limit = 0 := BitVec.toNat_inj (y := 0#8)
    rw [PortState.beginSession_eq, noticesAtOpen_eq]
    simp only [hlimit]
    rfl

end Open

end Sys2Proof.Machine

namespace Sys2Proof.Machine

variable {s : State} {p : Port}

/-! ### O26: WAKE# -/

/-- WAKE# by its conditions, with the two searches as existence (R172). -/
theorem State.wake_iff (s : State) (p : Port) :
    s.wake p = true ↔
      (s.port p).session = .dormant ∧
        ((∃ r : RouteNo, (s.route r).owner = some p ∧ (s.route r).cfg.wake = true ∧ (s.route r).state = .ready ∧
            (s.route r).cfg.masked = false) ∨
          ∃ n : ActionNo, (s.port p).actionNotices[n.val] = .pending) := by
  simp [State.wake, allRoutes_mem, allActions_mem, and_assoc]

/-- WAKE# is an open drain: it is driven low while asserted and let go otherwise (R172). -/
theorem wakePin_of_running (h : s.running) (p : Port) :
    s.wakePin p = if s.wake p = true then .drivenLow else .highImpedance := by
  have h' : s.hardReset = none := h
  unfold State.wakePin
  rw [h']
  rfl

/-- Settles O26, from the pin as an open drain and the conditions of WAKE#. -/
theorem wakeFollowsItsConditions : Obligations.WakeFollowsItsConditions := by
  intro p s hr
  rw [wakePin_of_running hr, ← State.wake_iff]
  cases s.wake p with
  | true => exact ⟨iff_of_true rfl rfl, Pin.noConfusion⟩
  | false => exact ⟨iff_of_false Pin.noConfusion Bool.noConfusion, Pin.noConfusion⟩

end Sys2Proof.Machine

namespace Sys2Proof.Machine

variable {s : State} {p : Port} {P : PortState}

/-! ### O32: frames in CLOSED

What a CLOSED port's receiver discards changes nothing but the receiver (R140). -/

section Closed

variable {seq info : Byte} {payload : List Byte}

theorem PortState.discardPayload_closed (hc : P.session = .closed) (data : Bool) :
    P.discardPayload data = { P with receiver := .hunt } := by
  simp [PortState.discardPayload_eq, hc]

theorem PortState.abandon_closed (hc : P.session = .closed) : ∃ receiver, P.abandon = { P with receiver := receiver } := by
  cases hrec : P.receiver with
  | hunt => exact ⟨P.receiver, PortState.abandon_of_hunt hrec⟩
  | header gathered => exact ⟨.hunt, by rw [PortState.abandon_of_header hrec, if_pos hc]⟩
  | payload header gathered =>
    exact ⟨.hunt, by rw [PortState.abandon_of_payload hrec, PortState.discardPayload_closed hc]⟩
  | skip left => exact ⟨.hunt, PortState.abandon_of_skip hrec⟩

/-- The bytes that reach the receiver are judged as a header, or leave the port as it is. -/
theorem PortState.takeHeader_cases (bytes : List Byte) (P : PortState) :
    (∃ header, P.takeHeader bytes = P.judgeHeader header) ∨ P.takeHeader bytes = P := by
  unfold PortState.takeHeader
  cases P.receiver with
  | hunt => exact (ite_eq_or_eq ..).imp_left fun h => ⟨_, h⟩
  | header gathered => exact (ite_eq_or_eq ..).imp_left fun h => ⟨_, h⟩
  | payload header gathered => exact .inr rfl
  | skip left => exact .inr rfl

theorem PortState.takeHeader_closed (hc : P.session = .closed) (bytes : List Byte) :
    ∃ receiver, P.takeHeader bytes = { P with receiver := receiver } := by
  obtain ⟨header, h⟩ | h := P.takeHeader_cases bytes
  · rw [h]
    exact P.judgeHeader_closed header hc
  · exact ⟨P.receiver, h⟩

theorem PortState.takeBadPayload_closed (hc : P.session = .closed) (t : FrameType) (bytes : List Byte) :
    ∃ receiver, P.takeBadPayload t bytes = { P with receiver := receiver } := by
  unfold PortState.takeBadPayload
  split
  · exact ⟨.hunt, PortState.discardPayload_closed hc _⟩
  · exact ⟨P.receiver, rfl⟩

/-- In CLOSED an OPEN is accepted whatever its SEQ, and any other DATA frame is lost (R161). -/
theorem dataFrame_of_closed (hc : (s.port p).session = .closed) (seq info : Byte) (payload : List Byte) :
    dataFrame p seq info payload s = s.updPort p fun P =>
      { P with
        receiver := .hunt
        accepted := P.accepted ++ if payload.head? = some 0x01 then [{ seq := seq, payload := payload }] else [] } := by
  unfold dataFrame
  dsimp only
  rw [if_pos hc]
  by_cases hopen : payload.head? = some 0x01
  · rw [if_pos ((isOpen_iff payload).2 hopen), State.updPort_updPort]
    refine State.updPort_congr ?_
    rw [if_pos hopen]
    unfold PortState.acceptOpen
    rw [if_pos (show (s.port p).toHunt.session = .closed from hc), ← hc]
    rfl
  · rw [if_neg (mt (isOpen_iff payload).1 hopen)]
    refine State.updPort_congr ?_
    rw [if_neg hopen, List.append_nil]
    rfl

theorem exec_ackFrameReceived_of_closed (hr : s.running) (hm : (s.port p).breakReported = false)
    (h : (s.port p).completes .ack seq info payload = true) (hc : (s.port p).session = .closed) :
    exec (.ackFrameReceived p seq info payload) s = .next (s.updPort p PortState.toHunt) := by
  refine (received_of_mark hr hm _).trans ?_
  rw [if_pos h]
  exact congrArg Host.Outcome.next (if_pos hc)

theorem exec_announceFrameReceived_of_closed (hr : s.running) (hm : (s.port p).breakReported = false)
    (h : (s.port p).completes .announce seq info payload = true) (hc : (s.port p).session = .closed) :
    exec (.announceFrameReceived p seq info payload) s = .next (s.updPort p PortState.toHunt) := by
  refine (received_of_mark hr hm _).trans ?_
  rw [if_pos h]
  exact congrArg Host.Outcome.next (State.updPort_congr (if_pos hc))

/-- Settles O32: the three valid frames, and what each way of losing a frame leaves of the port. -/
theorem closedPortHearsOpensAlone : Obligations.ClosedPortHearsOpensAlone := by
  refine fun p seq info payload s hr hc hm => ⟨fun h => ?_, fun h => exec_ackFrameReceived_of_closed hr hm h hc,
    fun h => exec_announceFrameReceived_of_closed hr hm h hc, ?_⟩
  · rw [exec_dataFrameReceived hr hm h, dataFrame_of_closed hc]
  rintro c (rfl | rfl | ⟨bytes, rfl⟩ | ⟨t, bytes, rfl⟩)
  · obtain ⟨receiver, h⟩ := PortState.abandon_closed hc
    exact ⟨receiver, (exec_abandons (f := fun P => { P with receiver := receiver }) hr h).1⟩
  · obtain ⟨receiver, h⟩ := PortState.abandon_closed hc
    exact ⟨receiver, (exec_abandons (f := fun P => { P with receiver := receiver }) hr h).2⟩
  · obtain ⟨receiver, h⟩ := PortState.takeHeader_closed hc bytes
    exact ⟨receiver, received_updPort hr hm h⟩
  · obtain ⟨receiver, h⟩ := PortState.takeBadPayload_closed hc t bytes
    exact ⟨receiver, received_updPort hr hm h⟩

end Closed

end Sys2Proof.Machine

namespace Sys2Proof.Machine

variable {s : State} {p : Port} {P : PortState}

/-! ### O40: ANNOUNCE -/

theorem Schedule.mayFallDue_iff (a : Schedule) : a.mayFallDue = true ↔ a = .due ∨ ∃ left, a = .waiting left := by
  cases a <;> simp [Schedule.mayFallDue]

theorem PortState.mayAnnounce_iff (P : PortState) :
    P.mayAnnounce = true ↔
      P.session = .closed ∧ (P.announce = .due ∨ ∃ left, P.announce = .waiting left) ∧ P.tx = none := by
  simp [PortState.mayAnnounce, PortState.txFree, Schedule.mayFallDue_iff, and_assoc]

/-- The eight bytes of section 10.1: family code, revision, port letter, reset cause, seconds (R159). -/
theorem announcePayload_eq (p : Port) (s : State) :
    announcePayload p s =
      [0x16, 0x48, 0x01, if p = .A then 0x41 else 0x42, resetCauseCode (s.port p).cause] ++
        leBytes 3 s.seconds.toNat := by
  cases p <;> rfl

/-- Settles O40: the port may begin the frame, and the frame's bytes. -/
theorem announceBegins : Obligations.AnnounceBegins := by
  intro p s hr hclosed hfree hdue
  have hmay : (s.port p).mayAnnounce = true := (PortState.mayAnnounce_iff _).2 ⟨hclosed, hdue, hfree⟩
  refine (taken_of_running hr _).trans (congrArg Host.Outcome.next ?_)
  rw [if_pos hmay]
  refine State.updPort_congr ?_
  rw [announceFrame, announcePayload_eq]
  rfl

end Sys2Proof.Machine

namespace Sys2Proof.Machine

variable {s : State} {p : Port}

/-! ### O21: the scheduler's order -/

/-- In an ascending list the element that is found is the least one that passes the test. -/
theorem find?_eq_some_of_least {n : Nat} {f : Fin n → Bool} {i : Fin n} {l : List (Fin n)} (hl : l.Pairwise (· < ·))
    (hi : i ∈ l) (hf : f i = true) (hleast : ∀ j, j < i → f j = false) : l.find? f = some i := by
  induction l with
  | nil => cases hi
  | cons j l ih =>
    obtain ⟨hj, hl⟩ := List.pairwise_cons.1 hl
    obtain rfl | hi := List.mem_cons.1 hi
    · exact List.find?_cons_of_pos hf
    · rw [List.find?_cons_of_neg (by rw [hleast j (hj i hi)]; exact Bool.false_ne_true)]
      exact ih hl hi

section Notices

variable {P : PortState}

theorem PortState.firstRouteNotice_eq_some {r : RouteNo} (h : P.routeNotices[r.val] ≠ .none)
    (hleast : ∀ q : RouteNo, q < r → P.routeNotices[q.val] = .none) : P.firstRouteNotice = some r :=
  find?_eq_some_of_least (by decide) (allRoutes_mem r) (bne_iff_ne.2 h) fun q hq => bne_eq_false_iff_eq.2 (hleast q hq)

theorem PortState.firstRouteNotice_eq_none (h : ∀ r : RouteNo, P.routeNotices[r.val] = .none) :
    P.firstRouteNotice = none :=
  List.find?_eq_none.2 fun r _ => by simp [h r]

theorem PortState.firstActionNotice_eq_some {n : ActionNo} (h : P.actionNotices[n.val] ≠ .none)
    (hleast : ∀ m : ActionNo, m < n → P.actionNotices[m.val] = .none) : P.firstActionNotice = some n :=
  find?_eq_some_of_least (by decide) (allActions_mem n) (bne_iff_ne.2 h) fun m hm => bne_eq_false_iff_eq.2 (hleast m hm)

theorem PortState.firstActionNotice_eq_none (h : ∀ n : ActionNo, P.actionNotices[n.val] = .none) :
    P.firstActionNotice = none :=
  List.find?_eq_none.2 fun n _ => by simp [h n]

end Notices

/-! The choice, class by class (R181) -/

theorem State.choice_eq_none
    (h : (s.port p).params.window ≤ (s.port p).window.length ∨ (s.port p).session = .closed ∨
      (s.port p).session = .dormant) : s.choice p = none := by
  refine if_neg ?_
  rintro ⟨hroom, hsession⟩
  obtain hfull | hclosed | hdormant := h
  · exact absurd hroom (Nat.not_lt.2 hfull)
  · simp [hclosed] at hsession
  · simp [hdormant] at hsession

section Classes

variable (hroom : (s.port p).window.length < (s.port p).params.window)

include hroom

theorem State.choice_of_backlog {q : Reply} {rest : List Reply}
    (hsession : (s.port p).session = .up ∨ (s.port p).session = .enteringDormant)
    (hbacklog : (s.port p).backlog = q :: rest) : s.choice p = some (.reply q rest) := by
  unfold State.choice
  simp only [if_pos (And.intro hroom hsession), hbacklog]

theorem State.choice_of_enteringDormant (hsession : (s.port p).session = .enteringDormant)
    (hbacklog : (s.port p).backlog = []) : s.choice p = none := by
  have hup : (s.port p).session ≠ .up := fun h => nomatch hsession.symm.trans h
  unfold State.choice
  simp only [if_pos (And.intro hroom (Or.inr hsession)), hbacklog, if_neg hup]

variable (hbacklog : (s.port p).backlog = []) (hup : (s.port p).session = .up)

include hbacklog hup

theorem State.choice_of_routeNotice {r : RouteNo} (h : (s.port p).firstRouteNotice = some r) :
    s.choice p = some (.routeNotice r (s.port p).routeNotices[r.val]) := by
  unfold State.choice
  simp only [if_pos (And.intro hroom (Or.inl hup)), hbacklog, if_pos hup, h]

theorem State.choice_of_actionNotice {n : ActionNo} (hroute : (s.port p).firstRouteNotice = none)
    (h : (s.port p).firstActionNotice = some n) :
    s.choice p = some (.actionNotice n (s.port p).actionNotices[n.val]) := by
  unfold State.choice
  simp only [if_pos (And.intro hroom (Or.inl hup)), hbacklog, if_pos hup, hroute, h]

theorem State.choice_of_no_notice (hroute : (s.port p).firstRouteNotice = none)
    (haction : (s.port p).firstActionNotice = none) :
    s.choice p = (s.bestCandidate p).map fun r => if s.reofferDue r then .reoffer r else .newBatch r := by
  unfold State.choice
  simp only [if_pos (And.intro hroom (Or.inl hup)), hbacklog, if_pos hup, hroute, haction]

end Classes

/-! The candidates (R57, R69) -/

/-- A READY route of the port that is not masked: the port may form a batch on it while it is UP (R57). -/
def State.readyFor (s : State) (p : Port) (r : RouteNo) : Prop :=
  (s.route r).owner = some p ∧ (s.route r).state = .ready ∧ (s.route r).cfg.masked = false

/-- A route of the port whose batch waits for a re-offer (R69). -/
def State.dueFor (s : State) (p : Port) (r : RouteNo) : Prop :=
  (s.route r).owner = some p ∧ ∃ b, (s.route r).batch = some b ∧ b.phase = .reofferDue

theorem State.reofferDue_iff (s : State) (r : RouteNo) :
    s.reofferDue r = true ↔ ∃ b, (s.route r).batch = some b ∧ b.phase = .reofferDue := by
  unfold State.reofferDue
  cases (s.route r).batch <;> simp

/-- NO_OWNER and OWNER_ABSENT do not hold a route back whose owner is UP (R57). -/
theorem State.eligible_iff {r : RouteNo} (howner : (s.route r).owner = some p) (hup : (s.port p).session = .up) :
    s.eligible r = true ↔ (s.route r).state = .ready ∧ (s.route r).cfg.masked = false := by
  simp [State.eligible, State.noOwner, State.ownerAbsent, howner, hup]

theorem State.candidate_iff (hup : (s.port p).session = .up) (r : RouteNo) :
    s.candidate p r = true ↔ s.readyFor p r ∨ s.dueFor p r := by
  unfold State.candidate State.readyFor State.dueFor
  rw [Bool.and_eq_true, beq_iff_eq, Bool.or_eq_true, State.reofferDue_iff, ← and_or_left]
  exact and_congr_right fun howner => or_congr_left (State.eligible_iff howner hup)

/-! The best candidate (R69) -/

/-- Route `r` is served no later than route `q`: by the priority, and then by the age of the head record (R69). -/
def State.servedFirst (s : State) (r q : RouteNo) : Prop :=
  (s.route r).cfg.priority < (s.route q).cfg.priority ∨
    ((s.route r).cfg.priority = (s.route q).cfg.priority ∧
      s.store.age (s.route q).headSeq ≤ s.store.age (s.route r).headSeq)

theorem State.servedFirst_refl (s : State) (r : RouteNo) : s.servedFirst r r := .inr ⟨rfl, Nat.le_refl _⟩

theorem State.servedFirst_trans {r q t : RouteNo} (hrq : s.servedFirst r q) (hqt : s.servedFirst q t) :
    s.servedFirst r t := by
  unfold State.servedFirst at *
  omega

theorem State.servedFirst_of_goesBefore {r q : RouteNo} (h : s.goesBefore r q = true) : s.servedFirst r q :=
  ((s.goesBefore_iff r q).1 h).imp_right (And.imp_right Nat.le_of_lt)

theorem State.servedFirst_of_not_goesBefore {r q : RouteNo} (h : ¬s.goesBefore q r = true) : s.servedFirst r q := by
  rw [State.goesBefore_iff] at h
  unfold State.servedFirst
  omega

theorem State.better_some (s : State) (q r : RouteNo) :
    ∃ t, s.better (some q) r = some t ∧ s.servedFirst t q ∧ s.servedFirst t r := by
  by_cases h : s.goesBefore r q = true
  · exact ⟨r, if_pos h, State.servedFirst_of_goesBefore h, s.servedFirst_refl r⟩
  · exact ⟨q, if_neg h, s.servedFirst_refl q, State.servedFirst_of_not_goesBefore h⟩

theorem State.foldl_better_some (s : State) (l : List RouteNo) (best : RouteNo) :
    ∃ r, l.foldl s.better (some best) = some r ∧ ∀ q ∈ best :: l, s.servedFirst r q := by
  induction l generalizing best with
  | nil => exact ⟨best, rfl, fun q hq => List.mem_singleton.1 hq ▸ s.servedFirst_refl best⟩
  | cons x l ih =>
    obtain ⟨t, ht, hbest, hx⟩ := s.better_some best x
    obtain ⟨r, hr, hfirst⟩ := ih t
    have hrt : s.servedFirst r t := hfirst t List.mem_cons_self
    refine ⟨r, by rw [List.foldl_cons, ht, hr], fun q hq => ?_⟩
    obtain rfl | hq := List.mem_cons.1 hq
    · exact State.servedFirst_trans hrt hbest
    · obtain rfl | hq := List.mem_cons.1 hq
      · exact State.servedFirst_trans hrt hx
      · exact hfirst q (List.mem_cons_of_mem _ hq)

/-- The scheduler takes the candidate that is served no later than any other, if there is one. -/
theorem State.bestCandidate_cases (s : State) (p : Port) :
    (s.bestCandidate p = none ∧ ∀ r, ¬s.candidate p r = true) ∨
      ∃ r, s.bestCandidate p = some r ∧ s.candidate p r = true ∧ ∀ q, s.candidate p q = true → s.servedFirst r q := by
  have hmem : ∀ r, r ∈ allRoutes.filter (s.candidate p) ↔ s.candidate p r = true := fun r => by
    simp [allRoutes_mem]
  cases hl : allRoutes.filter (s.candidate p) with
  | nil =>
    refine .inl ⟨by rw [State.bestCandidate, hl]; rfl, fun r hr => ?_⟩
    exact absurd (hl ▸ (hmem r).2 hr) List.not_mem_nil
  | cons x l =>
    obtain ⟨r, hr, hfirst⟩ := s.foldl_better_some l x
    have hbest : s.bestCandidate p = some r := by rw [State.bestCandidate, hl]; exact hr
    exact .inr ⟨r, hbest, candidate_of_bestCandidate hbest, fun q hq => hfirst q (hl ▸ (hmem q).2 hq)⟩

/-- The batch or re-offer chosen on a port that is UP and has no reply and no notice to send (R57, R69). -/
theorem State.choice_among_routes (hup : (s.port p).session = .up)
    (hchoice : s.choice p = (s.bestCandidate p).map fun r => if s.reofferDue r then .reoffer r else .newBatch r) :
    (s.choice p = none ∧ ∀ r, ¬s.readyFor p r ∧ ¬s.dueFor p r) ∨
      (∃ r, s.choice p = some (.newBatch r) ∧ s.readyFor p r ∧ ¬s.dueFor p r ∧
        ∀ q, s.readyFor p q ∨ s.dueFor p q → s.servedFirst r q) ∨
      ∃ r, s.choice p = some (.reoffer r) ∧ s.dueFor p r ∧ ∀ q, s.readyFor p q ∨ s.dueFor p q → s.servedFirst r q := by
  have hcandidate := State.candidate_iff (s := s) (p := p) hup
  obtain ⟨hnone, hno⟩ | ⟨r, hr, hrc, hfirst⟩ := s.bestCandidate_cases p
  · exact .inl ⟨by rw [hchoice, hnone]; rfl, fun r => not_or.1 fun h => hno r ((hcandidate r).2 h)⟩
  have hfirst : ∀ q, s.readyFor p q ∨ s.dueFor p q → s.servedFirst r q := fun q hq => hfirst q ((hcandidate q).2 hq)
  rw [hr, Option.map_some] at hchoice
  by_cases hdue : s.dueFor p r
  · rw [if_pos ((s.reofferDue_iff r).2 hdue.2)] at hchoice
    exact .inr (.inr ⟨r, hchoice, hdue, hfirst⟩)
  · have hready : s.readyFor p r := ((hcandidate r).1 hrc).resolve_right hdue
    rw [if_neg fun h => hdue ⟨hready.1, (s.reofferDue_iff r).1 h⟩] at hchoice
    exact .inr (.inl ⟨r, hchoice, hready, hdue, hfirst⟩)

/-! The age of a head record (log 20) -/

theorem Store.age_headSeq_of_empty (st : Store) {t : Route} (h : t.queue = []) :
    st.age t.headSeq = st.nextSeq.toNat % 4294967295 := by
  rw [Route.headSeq, h]
  exact Nat.add_mod_right ..

theorem Store.age_headSeq_of_cons (st : Store) {t : Route} {x : Rec} {xs : List Rec} (h : t.queue = x :: xs) :
    st.age t.headSeq = (st.nextSeq.toNat + 4294967295 - x.seq.toNat) % 4294967295 := by
  rw [Route.headSeq, h]
  rfl

/-- Settles O21: the classes in their order, and among the routes the best candidate. -/
theorem schedulerChoosesInOrder : Obligations.SchedulerChoosesInOrder := by
  intro p s P ready due behind first
  have hbehind : ∀ r, behind r = s.store.age (s.route r).headSeq := fun r => by
    dsimp only [behind]
    cases hq : (s.route r).queue with
    | nil => exact (s.store.age_headSeq_of_empty hq).symm
    | cons x xs => exact (s.store.age_headSeq_of_cons hq).symm
  have hfirst : ∀ r, (∀ q, s.readyFor p q ∨ s.dueFor p q → s.servedFirst r q) → first r := fun r h q hq => by
    rw [hbehind, hbehind]
    exact h q hq
  refine ⟨State.choice_eq_none, fun hroom hsession => ⟨fun q rest => State.choice_of_backlog hroom hsession,
    fun hbacklog hentering => State.choice_of_enteringDormant hroom hentering hbacklog, fun hbacklog hup =>
      ⟨fun r hr hleast => ?_, fun hroutes => ⟨fun n hn hleast => ?_, fun hactions => ?_⟩⟩⟩⟩
  · exact State.choice_of_routeNotice hroom hbacklog hup (PortState.firstRouteNotice_eq_some hr hleast)
  · exact State.choice_of_actionNotice hroom hbacklog hup (PortState.firstRouteNotice_eq_none hroutes)
      (PortState.firstActionNotice_eq_some hn hleast)
  · have hchoice := State.choice_of_no_notice hroom hbacklog hup (PortState.firstRouteNotice_eq_none hroutes)
      (PortState.firstActionNotice_eq_none hactions)
    obtain hnone | ⟨r, hnew, hready, hdue, h⟩ | ⟨r, hagain, hdue, h⟩ := State.choice_among_routes hup hchoice
    · exact .inl hnone
    · exact .inr (.inl ⟨r, hnew, hready, hdue, hfirst r h⟩)
    · exact .inr (.inr ⟨r, hagain, hdue, hfirst r h⟩)

end Sys2Proof.Machine

namespace Sys2Proof.Machine

variable {p : Port} {code : Byte} {n : Nat} {act : Byte → List Byte → State → State}

/-! ## Refused requests

### O44: BAD_CODE and BAD_LENGTH -/

/-- A request with `n` fields after its tag refuses any other number of them with BAD_LENGTH (R176). -/
def RefusesOtherLengths (p : Port) (code : Byte) (n : Nat) (act : Byte → List Byte → State → State) : Prop :=
  ∀ tag fields u, fields.length ≠ n → act tag fields u = refuse p code tag .badLength u

/-- The length counts the code and the tag; a missing tag is answered as 0 (R176). -/
theorem RefusesOtherLengths.taken_request (hact : RefusesOtherLengths p code n act) {rest : List Byte} {s : State}
    (hlen : rest.length + 1 ≠ n + 2) (h : Takes p code rest s) :
    taken s (request p code rest act) = .next (s.answered p [code + 0x80, rest.headD 0, 0x02]) := by
  cases rest with
  | nil => exact taken_request_bare h act
  | cons tag fields =>
    have hfields : fields.length ≠ n := fun heq => hlen (congrArg (· + 2) heq)
    rw [taken_request_tag h, hact _ _ _ hfields, refuse_afterTake]
    rfl

/-- A row of section 10.2: its code, its length and its command. A message of another length has BAD_LENGTH (R176). -/
def RowRefusesLengths (p : Port) (s : State) (row : Byte × Nat × (List Byte → Instr)) : Prop :=
  ∀ rest, rest.length + 1 ≠ row.2.1 → Takes p row.1 rest s →
    exec (row.2.2 rest) s = .next (s.answered p [row.1 + 0x80, rest.headD 0, 0x02])

theorem RefusesOtherLengths.row {s : State} {c : List Byte → Instr} (hact : RefusesOtherLengths p code n act)
    (hexec : ∀ rest, exec (c rest) s = taken s (request p code rest act)) : RowRefusesLengths p s (code, n + 2, c) :=
  fun rest hlen h => (hexec rest).trans (hact.taken_request hlen h)

/-! How many fields each request has after its tag (section 10.2) -/

theorem refusesOtherLengths_zero (hmore : ∀ tag b bs u, act tag (b :: bs) u = refuse p code tag .badLength u) :
    RefusesOtherLengths p code 0 act := by
  intro tag fields u hlen
  cases fields with
  | nil => exact absurd rfl hlen
  | cons b bs => exact hmore tag b bs u

theorem refusesOtherLengths_one (hnone : ∀ tag u, act tag [] u = refuse p code tag .badLength u)
    (hmore : ∀ tag b c bs u, act tag (b :: c :: bs) u = refuse p code tag .badLength u) :
    RefusesOtherLengths p code 1 act := by
  intro tag fields u hlen
  match fields with
  | [] => exact hnone tag u
  | [_] => exact absurd rfl hlen
  | b :: c :: bs => exact hmore tag b c bs u

theorem setTimeWith_otherLengths (p : Port) : RefusesOtherLengths p 0x08 6 (setTimeWith p) :=
  fun _ _ _ hlen => if_neg hlen

theorem sourceSetWith_otherLengths (p : Port) : RefusesOtherLengths p 0x10 6 (sourceSetWith p) := by
  intro tag fields u hlen
  unfold sourceSetWith
  split
  · exact absurd rfl hlen
  · rfl

theorem routeSetWith_otherLengths (p : Port) : RefusesOtherLengths p 0x20 11 (routeSetWith p) := by
  intro tag fields u hlen
  refine checked_error (?_ : readRouteSet fields = .error .badLength) ..
  unfold readRouteSet
  split
  · exact absurd rfl hlen
  · rfl

theorem claimRouteWith_otherLengths (p : Port) : RefusesOtherLengths p 0x22 2 (claimRouteWith p) := by
  intro tag fields u hlen
  unfold claimRouteWith
  split
  · exact absurd rfl hlen
  · rfl

theorem serviceDoneWith_otherLengths (p : Port) : RefusesOtherLengths p 0x25 3 (serviceDoneWith p) := by
  intro tag fields u hlen
  unfold serviceDoneWith
  split
  · exact absurd rfl hlen
  · rfl

theorem actionSetWith_otherLengths (p : Port) : RefusesOtherLengths p 0x30 8 (actionSetWith p) := by
  intro tag fields u hlen
  refine checked_error (?_ : readActionSet fields = .error .badLength) ..
  unfold readActionSet
  split
  · exact absurd rfl hlen
  · rfl

theorem historyReadWith_otherLengths (p : Port) : RefusesOtherLengths p 0x38 3 (historyReadWith p) := by
  intro tag fields u hlen
  unfold historyReadWith
  split
  · exact absurd rfl hlen
  · rfl

/-- An unknown code is answered with code 0xFF (R176). -/
theorem exec_badCode {rest : List Byte} {s : State} (hcode : code ∉ requestCodes) (h : Takes p code rest s) :
    exec (.badCode p code rest) s = .next (s.answered p [0xFF, rest.headD 0, 0x01]) := by
  refine (taken_of_running h.1 _).trans (congrArg Host.Outcome.next ?_)
  rw [answerBadCode, if_neg (by simpa using hcode), takeRequest_of_takes h]
  rfl

/-- Settles O44: an unknown code by the list of codes, and each known code by the number of its fields. -/
theorem badCodesAndBadLengthsAreRefused : Obligations.BadCodesAndBadLengthsAreRefused := by
  refine fun p s => ⟨fun code rest hcode h => exec_badCode hcode h, fun code length c hmem => ?_⟩
  refine (?_ : ∀ row ∈ _, RowRefusesLengths p s row) (code, length, c) hmem
  simp only [List.forall_mem_cons]
  exact ⟨(refusesOtherLengths_zero (act := closeWith p) fun _ _ _ _ => rfl).row fun _ => rfl,
    (refusesOtherLengths_zero (act := pingWith p) fun _ _ _ _ => rfl).row fun _ => rfl,
    (refusesOtherLengths_zero (act := dormantWith p) fun _ _ _ _ => rfl).row fun _ => rfl,
    (refusesOtherLengths_zero (act := statusWith p) fun _ _ _ _ => rfl).row fun _ => rfl,
    (refusesOtherLengths_zero (act := deviceResetWith p) fun _ _ _ _ => rfl).row fun _ => rfl,
    (refusesOtherLengths_zero (act := getTimeWith p) fun _ _ _ _ => rfl).row fun _ => rfl,
    (setTimeWith_otherLengths p).row fun _ => rfl,
    (sourceSetWith_otherLengths p).row fun _ => rfl,
    (refusesOtherLengths_one (act := sourceGetWith p) (fun _ _ => rfl) fun _ _ _ _ _ => rfl).row fun _ => rfl,
    (refusesOtherLengths_zero (act := lineReadWith p) fun _ _ _ _ => rfl).row fun _ => rfl,
    (routeSetWith_otherLengths p).row fun _ => rfl,
    (refusesOtherLengths_one (act := routeGetWith p) (fun _ _ => rfl) fun _ _ _ _ _ => rfl).row fun _ => rfl,
    (claimRouteWith_otherLengths p).row fun _ => rfl,
    (refusesOtherLengths_one (act := releaseRouteWith p) (fun _ _ => rfl) fun _ _ _ _ _ => rfl).row fun _ => rfl,
    (refusesOtherLengths_one (act := resumeRouteWith p) (fun _ _ => rfl) fun _ _ _ _ _ => rfl).row fun _ => rfl,
    (serviceDoneWith_otherLengths p).row fun _ => rfl,
    (actionSetWith_otherLengths p).row fun _ => rfl,
    (refusesOtherLengths_one (act := actionGetWith p) (fun _ _ => rfl) fun _ _ _ _ _ => rfl).row fun _ => rfl,
    (refusesOtherLengths_one (act := cancelActionWith p) (fun _ _ => rfl) fun _ _ _ _ _ => rfl).row fun _ => rfl,
    (refusesOtherLengths_one (act := setOutputWith p) (fun _ _ => rfl) fun _ _ _ _ _ => rfl).row fun _ => rfl,
    (refusesOtherLengths_one (act := clearOutputWith p) (fun _ _ => rfl) fun _ _ _ _ _ => rfl).row fun _ => rfl,
    (historyReadWith_otherLengths p).row fun _ => rfl,
    fun _ hnone => absurd hnone List.not_mem_nil⟩

end Sys2Proof.Machine

namespace Sys2Proof.Machine

variable {time owners : Prop} {s u t : State} {p : Port}

/-! ### O5: straps, time and owners

`KeepsSettings time owners s t` says what the part at `t` still has of `s`: the straps and the seconds in any case, the Timebase
if `time` asks for it, the route owners if `owners` asks for them. One walk through the commands then serves both halves of the
statement: SET-TIME needs that the time is not asked for, and a claim, a release and a session loss that the owners are not. -/

theorem Route.offerAcked_owner (p : Port) (tag seq : Byte) (x : Route) : (x.offerAcked p tag seq).owner = x.owner := by
  unfold Route.offerAcked
  split
  · rfl
  · split
    · split <;> rfl
    · rfl

/-- The part still has its straps and its seconds, its Timebase where `time` holds, and its route owners where `owners` holds. -/
structure KeepsSettings (time owners : Prop) (s t : State) : Prop where
  rate1 : t.rate1 = s.rate1
  rate0 : t.rate0 = s.rate0
  seconds : t.seconds = s.seconds
  micro : t.micro = s.micro
  timebase : time → t.timebase = s.timebase
  owner : owners → ∀ r, (t.route r).owner = (s.route r).owner

namespace KeepsSettings

theorem refl (s : State) : KeepsSettings time owners s s := ⟨rfl, rfl, rfl, rfl, fun _ => rfl, fun _ _ => rfl⟩

section Keeps

variable (h : KeepsSettings time owners s u)

include h

/-! #### Changes of the blocks that hold none of the settings, and of the routes -/

theorem port {f : PortState → PortState} : KeepsSettings time owners s (u.updPort p f) := { h with }

theorem action {n : ActionNo} {f : Action → Action} : KeepsSettings time owners s (u.updAction n f) := { h with }

theorem source {i : SourceNo} {f : Source → Source} : KeepsSettings time owners s (u.updSource i f) := { h with }

theorem line {i : LineNo} {f : Line → Line} : KeepsSettings time owners s (u.updLine i f) := { h with }

theorem withHeld (items : List Held) : KeepsSettings time owners s { u with held := items } := { h with }

theorem raise {i : SourceNo} {detail : Half} : KeepsSettings time owners s (u.raise i detail) := by
  rw [State.raise_held]
  exact h.withHeld _

theorem closeAll {out : CloseOutcome} {closed : Time} {xs : List Rec} :
    KeepsSettings time owners s (u.closeAll out closed xs) := by
  rw [closeAll_eq]
  exact { h with }

/-- A change of routes that gives none another owner. -/
theorem routes {v : Vector Route 8} (hv : ∀ r : RouteNo, v[r.val].owner = (u.route r).owner) :
    KeepsSettings time owners s { u with routes := v } :=
  { h with owner := fun ho r => (hv r).trans (h.owner ho r) }

theorem route {r : RouteNo} {f : Route → Route} (hf : ∀ x, (f x).owner = x.owner := by exact fun _ => rfl) :
    KeepsSettings time owners s (u.updRoute r f) := by
  refine h.routes fun q => ?_
  change ((u.updRoute r f).route q).owner = _
  rw [State.route_updRoute]
  split
  next hq => rw [hf, hq]
  next => rfl

/-- A route changes hands: the owners are not asked for. -/
theorem handOver (hno : ¬owners) {r : RouteNo} {f : Route → Route} : KeepsSettings time owners s (u.updRoute r f) :=
  { h with owner := fun ho => absurd ho hno }

/-! #### Handing on -/

theorem kept (hk : KeptByHandOn u t) : KeepsSettings time owners s t where
  rate1 := hk.rate1.trans h.rate1
  rate0 := hk.rate0.trans h.rate0
  seconds := hk.seconds.trans h.seconds
  micro := hk.micro.trans h.micro
  timebase ht := hk.timebase.trans (h.timebase ht)
  owner ho r := (congrArg Route.owner (hk.route r)).trans (h.owner ho r)

theorem handOnHeld : KeepsSettings time owners s (handOnHeld u) := h.kept (handOnHeld_kept u)

theorem fire {n : ActionNo} {cause : FireCause} : KeepsSettings time owners s (fire n cause u) := h.action.raise

theorem endGrace {n : ActionNo} {outcome : GraceOutcome} {endedBy : Option Port} :
    KeepsSettings time owners s (endGrace n outcome endedBy u) := h.action.port.port

theorem lineMoves {i : LineNo} (hm : LineMoves i u t) : KeepsSettings time owners s t := by
  obtain ⟨f, -, hk⟩ := hm
  exact h.line.kept hk

/-! #### The end of a session -/

theorem returnBatches : KeepsSettings time owners s (returnBatches p u) := by
  refine h.routes fun r => ?_
  change ((Machine.returnBatches p u).route r).owner = _
  rw [returnBatches_route]
  split <;> rfl

/-- A soft reset leaves the straps, the time and the owners (R65, R185). -/
theorem softReset : KeepsSettings time owners s (softReset u) where
  rate1 := (softReset_rate1 u).trans h.rate1
  rate0 := (softReset_rate0 u).trans h.rate0
  seconds := (softReset_seconds u).trans h.seconds
  micro := (softReset_micro u).trans h.micro
  timebase ht := (softReset_timebase u).trans (h.timebase ht)
  owner ho r := (congrArg Route.owner (softReset_route u r)).trans (h.owner ho r)

theorem resetIfPending : KeepsSettings time owners s (resetIfPending p u) := ite_keeps h.softReset h

theorem endOrderly {schedule : Schedule} : KeepsSettings time owners s (endOrderly schedule p u) :=
  h.port.returnBatches.resetIfPending

theorem orderlyEnd : KeepsSettings time owners s (orderlyEnd p u) := h.endOrderly

theorem failOver (hno : ¬owners) (moved : List RouteNo) : KeepsSettings time owners s (moved.foldl (failOver p) u) := by
  induction moved generalizing u with
  | nil => exact h
  | cons r moved ih => exact ih (h.handOver hno).port

/-- A session loss moves routes alone (R106). -/
theorem sessionLoss (hno : ¬owners) {cause : LossCause} {schedule : Schedule} :
    KeepsSettings time owners s (sessionLoss p cause schedule u) := by
  have hmoved : KeepsSettings time owners s (afterFailover p schedule u) := h.port.returnBatches.failOver hno _
  have hlost : KeepsSettings time owners s (loseSession p cause schedule u) := by
    rw [loseSession_eq]
    exact { hmoved with }
  exact hlost.handOnHeld.resetIfPending

theorem callRound (hno : ¬owners) : KeepsSettings time owners s (callRound p u) :=
  ite_keeps h.port (ite_keeps h.orderlyEnd (h.sessionLoss hno))

theorem breakSession (hno : ¬owners) : KeepsSettings time owners s (breakSession p u) :=
  ite_keeps (h.sessionLoss hno) (ite_keeps h.port h.endOrderly)

/-! #### Frames from the agent -/

theorem reportAcked (w : Slot) : KeepsSettings time owners s (reportAcked p u w) := by
  unfold Machine.reportAcked
  cases w.role with
  | plain => exact h
  | close => exact ite_keeps h.orderlyEnd h
  | refusedOpen => exact ite_keeps h.orderlyEnd h
  | deviceReset => exact h.resetIfPending
  | notify r tag => exact h.route (Route.offerAcked_owner p tag w.seq)

theorem applyAck {a : Byte} : KeepsSettings time owners s (applyAck p a u) := by
  have hacked : ∀ (acked : List Slot) (v : State), KeepsSettings time owners s v →
      KeepsSettings time owners s (acked.foldl (Machine.reportAcked p) v) := by
    intro acked
    induction acked with
    | nil => exact fun v hv => hv
    | cons w acked ih => exact fun v hv => ih _ (hv.reportAcked w)
  unfold Machine.applyAck
  split
  · exact h
  · exact (hacked _ _ h.port).port

/-- No DATA frame costs a session: what it acknowledges ends a session in order at most (R164, R166). -/
theorem dataFrame {seq info : Byte} {payload : List Byte} : KeepsSettings time owners s (dataFrame p seq info payload u) := by
  have hsession : ∀ v, KeepsSettings time owners s v → KeepsSettings time owners s (dataInSession p seq info payload v) :=
    fun v hv => ite_keeps (ite_keeps hv.port.applyAck hv.port) hv.port.applyAck
  exact ite_keeps (ite_keeps h.port.port h.port) (hsession _ h.port.port)

theorem ackFrame (hno : ¬owners) {seq info : Byte} : KeepsSettings time owners s (ackFrame p seq info u) := by
  have hsession : ∀ v, KeepsSettings time owners s v → KeepsSettings time owners s (ackInSession p seq info v) :=
    fun v hv => ite_keeps (hv.applyAck.port.callRound hno) hv.applyAck
  exact ite_keeps h.port (hsession _ h.port.port)

/-! #### The service cycle and the actions -/

theorem serviceTimerExpires (r : RouteNo) : KeepsSettings time owners s (serviceTimerExpires r u) := by
  unfold Machine.serviceTimerExpires
  split
  · exact ite_keeps h.route h.route.raise.handOnHeld
  · exact h

theorem placeNotify {r : RouteNo} {again : Bool} : KeepsSettings time owners s (placeNotify p r again u) := by
  unfold Machine.placeNotify
  split
  · exact h
  · exact h.port

theorem graceExpires (n : ActionNo) : KeepsSettings time owners s (graceExpires n u) := by
  unfold Machine.graceExpires
  cases (u.action n).state with
  | grace left => exact h.endGrace.fire.handOnHeld
  | idle => exact h
  | fired cause pulse => exact h

theorem pulseExpires (n : ActionNo) : KeepsSettings time owners s (pulseExpires n u) := by
  unfold Machine.pulseExpires
  split
  · exact h.action
  all_goals exact h

theorem setOutput (n : ActionNo) : KeepsSettings time owners s (setOutput p n u) := by
  unfold Machine.setOutput
  cases (u.action n).state with
  | idle => exact h.fire
  | grace left => exact h.endGrace.fire
  | fired cause pulse => exact h

/-! #### Requests -/

theorem takeRequest {code : Byte} {rest : List Byte} (ht : takeRequest p code rest u = some t) :
    KeepsSettings time owners s t := by
  unfold Machine.takeRequest at ht
  split at ht
  · split at ht
    · cases ht
      exact h.port
    · cases ht
  · split at ht
    · cases ht
      exact h
    · cases ht

theorem takeOpen {seq : Byte} {rest : List Byte} (ht : takeOpen p seq rest u = some t) : KeepsSettings time owners s t := by
  unfold Machine.takeOpen at ht
  split at ht
  · split at ht
    · cases ht
      exact h.port
    · cases ht
  · split at ht
    · cases ht
    · cases ht
      exact h

theorem checked {α : Type} {code tag : Byte} {value : Except Result α}
    {act : α → State → State} (hact : ∀ v, KeepsSettings time owners s (act v u)) :
    KeepsSettings time owners s (checked p code tag value act u) := by
  cases value with
  | error r => exact h.port
  | ok v => exact hact v

theorem configChanged {code : Byte} : KeepsSettings time owners s (Machine.handOnHeld (configChanged p code u)) :=
  h.raise.handOnHeld

theorem openTaken (seq : Byte) (rest : List Byte) : KeepsSettings time owners s (openTaken p seq rest u) := by
  have hend : KeepsSettings time owners s (endBeforeOpen p u) := ite_keeps h h.orderlyEnd
  cases rest with
  | nil => exact hend.port
  | cons tag fields =>
    change KeepsSettings time owners s (openWith p seq tag fields (endBeforeOpen p u))
    unfold openWith
    cases readOpen fields <;> exact hend.port

theorem dormantWith (tag : Byte) (fields : List Byte) : KeepsSettings time owners s (dormantWith p tag fields u) := by
  cases fields with
  | nil => exact ite_keeps h.port h.port
  | cons field fields => exact h.port

/-- SET-TIME moves the Timebase, which is not asked for (R38). -/
theorem setTimeWith (hno : ¬time) (tag : Byte) (fields : List Byte) :
    KeepsSettings time owners s (setTimeWith p tag fields u) := by
  refine ite_keeps (configChanged ?_) h.port
  exact { h with timebase := fun ht => absurd ht hno }

theorem configureSource {i : SourceNo} {cfg : SourceConfig} : KeepsSettings time owners s (configureSource i cfg u) := by
  unfold Machine.configureSource restartLine
  split
  · exact h.source.line
  · exact h.source

theorem sourceSetWith (tag : Byte) (fields : List Byte) : KeepsSettings time owners s (sourceSetWith p tag fields u) := by
  unfold Machine.sourceSetWith
  split
  · exact h.checked fun _ => ite_keeps h.configureSource.port.configChanged h.port
  · exact h.port

theorem routeSetWith (tag : Byte) (fields : List Byte) : KeepsSettings time owners s (routeSetWith p tag fields u) := by
  refine h.checked fun v => ite_keeps h.port (ite_keeps h.port (configChanged ?_))
  have hset : KeepsSettings time owners s (configureRoute v.1 v.2 u) := h.route.closeAll
  exact hset.port.kept ((keptByHandOn_keeps _).handSome _ _ (.rfl _))

theorem claimRouteWith (hno : ¬owners) (tag : Byte) (fields : List Byte) :
    KeepsSettings time owners s (claimRouteWith p tag fields u) := by
  unfold Machine.claimRouteWith
  split
  · refine h.checked fun v => ?_
    unfold claimRouteChecked
    cases u.claim p v.1 v.2 with
    | denied => exact h.port
    | keep => exact h.port.configChanged
    | change =>
      refine configChanged (port (port ?_))
      unfold tellOldOwner
      cases (u.route v.1).owner with
      | none => exact h.handOver hno
      | some q => exact (h.handOver hno).port
  · exact h.port

theorem releaseRouteWith (hno : ¬owners) (tag : Byte) (fields : List Byte) :
    KeepsSettings time owners s (releaseRouteWith p tag fields u) := by
  unfold Machine.releaseRouteWith
  split
  · exact h.checked fun r => ite_keeps (h.handOver hno).port.port.configChanged h.port
  · exact h.port

theorem resumeRouteWith (tag : Byte) (fields : List Byte) : KeepsSettings time owners s (resumeRouteWith p tag fields u) := by
  unfold Machine.resumeRouteWith
  split
  · exact h.checked fun r => ite_keeps h.route.port h.port
  · exact h.port

theorem serviceDoneWith (tag : Byte) (fields : List Byte) : KeepsSettings time owners s (serviceDoneWith p tag fields u) := by
  unfold Machine.serviceDoneWith
  split
  · refine h.checked fun v => ite_keeps ?_ h.port
    cases (u.route v.1).batchOf v.2.1 with
    | none => exact h.port
    | some b => exact ite_keeps h.port h.route.closeAll.port.handOnHeld
  · exact h.port

theorem actionSetWith (tag : Byte) (fields : List Byte) : KeepsSettings time owners s (actionSetWith p tag fields u) :=
  h.checked fun _ => ite_keeps h.action.port.configChanged h.port

theorem cancelActionWith (tag : Byte) (fields : List Byte) :
    KeepsSettings time owners s (cancelActionWith p tag fields u) := by
  unfold Machine.cancelActionWith
  split
  · refine h.checked fun n => ?_
    unfold cancelActionChecked
    cases (u.action n).state with
    | grace left => exact h.endGrace.action.port
    | fired cause pulse => exact h.port
    | idle => exact h.port
  · exact h.port

theorem setOutputWith (tag : Byte) (fields : List Byte) : KeepsSettings time owners s (setOutputWith p tag fields u) := by
  unfold Machine.setOutputWith
  split
  · exact h.checked fun n => (h.setOutput n).port.handOnHeld
  · exact h.port

theorem clearOutputWith (tag : Byte) (fields : List Byte) : KeepsSettings time owners s (clearOutputWith p tag fields u) := by
  unfold Machine.clearOutputWith
  split
  · refine h.checked fun n => ?_
    unfold clearOutputChecked
    cases (u.action n).state with
    | fired cause pulse => exact h.action.port
    | idle => exact h.port
    | grace left => exact h.port
  · exact h.port

theorem answerBadCode {code : Byte} {rest : List Byte} : KeepsSettings time owners s (answerBadCode p code rest u) := by
  refine ite_keeps h ?_
  cases e : Machine.takeRequest p code rest u with
  | none => exact h
  | some v => exact (h.takeRequest e).port

end Keeps

/-- A request answered keeps what its action on the part keeps. -/
theorem of_request {code : Byte} {rest : List Byte} {act : Byte → List Byte → State → State}
    (h : taken s (request p code rest act) = .next t)
    (hact : ∀ tag fields u, KeepsSettings time owners s u → KeepsSettings time owners s (act tag fields u)) :
    KeepsSettings time owners s t := by
  refine keeps_of_taken h ?_ (.refl s)
  unfold request
  cases e : Machine.takeRequest p code rest s with
  | none => exact .refl s
  | some u =>
    have hu : KeepsSettings time owners s u := takeRequest (.refl s) e
    cases rest with
    | nil => exact hu.port
    | cons tag fields => exact hact tag fields u hu

end KeepsSettings

/-! #### Every command -/

/-- The commands that leave every route with its owner: all but hard reset and its release, a claim, a release, and those that
can end in a session loss (R44, R93, R168). -/
def LeavesOwners : Instr → Prop
  | .hardReset _ => False
  | .resetRelease _ _ => False
  | .claimRoute _ _ => False
  | .releaseRoute _ _ => False
  | .silenceExpiry _ => False
  | .retransmitTimeout _ => False
  | .ackFrameReceived _ _ _ _ => False
  | .linkBreak _ => False
  | _ => True

/-- What a command outside hard reset keeps: the Timebase unless it is SET-TIME, the owners unless it is one that moves them. -/
theorem exec_keepsSettings {c : Instr} (h : exec c s = .next t) (hhard : ∀ cause, c ≠ .hardReset cause)
    (hrelease : ∀ a b, c ≠ .resetRelease a b) (htime : time → ∀ p rest, c ≠ .setTime p rest)
    (howners : owners → LeavesOwners c) : KeepsSettings time owners s t := by
  have hs : KeepsSettings time owners s s := .refl s
  cases c with
  | hardReset cause => exact absurd rfl (hhard cause)
  | resetRelease rate1 rate0 => exact absurd rfl (hrelease rate1 rate0)
  | sampleInstant raw =>
    rw [exec_sampleInstant_kept h]
    exact { hs with }
  | acceptedLevelChange i => exact hs.lineMoves (exec_acceptedLevelChange_moves h)
  | settleReport i => exact hs.lineMoves (exec_settleReport_moves h)
  | holdoffExpiry i => exact hs.kept (exec_holdoffExpiry_kept h)
  | serviceTimerExpiry r => exact keeps_of_taken h (hs.serviceTimerExpires r) hs
  | formBatch p | reoffer p =>
    dsimp only [exec] at h
    refine keeps_of_taken h ?_ hs
    split
    · exact hs.route.placeNotify
    · exact hs
  | placeReply p | routeLost p | routeGained p | actionPending p | actionEnded p | transmitDataFrame p =>
    dsimp only [exec] at h
    refine keeps_of_taken h ?_ hs
    split
    · exact hs.port
    · exact hs
  | graceExpiry n => exact keeps_of_taken h (hs.graceExpires n) hs
  | pulseExpiry n => exact keeps_of_taken h (hs.pulseExpires n) hs
  | syncByte p | frameHeaderReceived p bytes | payloadBad p ftype bytes | skipComplete p =>
    exact keeps_of_received h hs.port hs
  | interByteGap p | framingError p | ackDelayExpiry p | frameTransmitEnd p | breakLineMark p =>
    exact keeps_of_taken h hs.port hs
  | dataFrameReceived p seq info payload => exact keeps_of_received h (ite_keeps hs.dataFrame hs) hs
  | ackFrameReceived p seq info payload => exact keeps_of_received h (ite_keeps (hs.ackFrame howners) hs) hs
  | announceFrameReceived p seq info payload => exact keeps_of_received h (ite_keeps hs.port hs) hs
  | transmitAckFrame p | announce p => exact keeps_of_taken h (ite_keeps hs.port hs) hs
  | retransmitTimeout p => exact keeps_of_taken h (ite_keeps (hs.port.callRound howners) hs) hs
  | linkBreak p =>
    dsimp only [exec] at h
    exact keeps_of_taken h (ite_keeps hs (hs.port.breakSession howners)) hs
  | silenceExpiry p => exact keeps_of_taken h (ite_keeps (hs.sessionLoss howners) hs) hs
  | deviceResetTimeout p => exact keeps_of_taken h (ite_keeps hs.softReset hs) hs
  | openSession p seq rest =>
    dsimp only [exec] at h
    refine keeps_of_taken h ?_ hs
    split
    · exact hs
    next u hu => exact (hs.takeOpen hu).openTaken seq rest
  | close p rest | ping p rest | status p rest | deviceReset p rest | getTime p rest | lineRead p rest =>
    refine .of_request h fun tag fields u hu => ?_
    cases fields <;> exact hu.port
  | sourceGet p rest | routeGet p rest | actionGet p rest | historyRead p rest =>
    refine .of_request h fun tag fields u hu => ?_
    dsimp only [sourceGetWith, routeGetWith, actionGetWith, historyReadWith]
    split
    · exact hu.checked fun _ => hu.port
    · exact hu.port
  | dormant p rest => exact .of_request h fun tag fields _ hu => hu.dormantWith tag fields
  | setTime p rest =>
    exact .of_request h fun tag fields _ hu => hu.setTimeWith (fun ht => htime ht p rest rfl) tag fields
  | sourceSet p rest => exact .of_request h fun tag fields _ hu => hu.sourceSetWith tag fields
  | routeSet p rest => exact .of_request h fun tag fields _ hu => hu.routeSetWith tag fields
  | claimRoute p rest => exact .of_request h fun tag fields _ hu => hu.claimRouteWith howners tag fields
  | releaseRoute p rest => exact .of_request h fun tag fields _ hu => hu.releaseRouteWith howners tag fields
  | resumeRoute p rest => exact .of_request h fun tag fields _ hu => hu.resumeRouteWith tag fields
  | serviceDone p rest => exact .of_request h fun tag fields _ hu => hu.serviceDoneWith tag fields
  | actionSet p rest => exact .of_request h fun tag fields _ hu => hu.actionSetWith tag fields
  | cancelAction p rest => exact .of_request h fun tag fields _ hu => hu.cancelActionWith tag fields
  | setOutput p rest => exact .of_request h fun tag fields _ hu => hu.setOutputWith tag fields
  | clearOutput p rest => exact .of_request h fun tag fields _ hu => hu.clearOutputWith tag fields
  | badCode p code rest => exact keeps_of_taken h hs.answerBadCode hs

theorem State.bitRate_eq (s : State) :
    s.bitRate = if s.rate1 then (if s.rate0 then 3000000 else 1000000) else (if s.rate0 then 460800 else 115200) := by
  unfold State.bitRate
  cases s.rate1 <;> cases s.rate0 <;> rfl

/-- Settles O5: the first half asks of a command for its Timebase unless it is SET-TIME and for no owner, the second for the
owners alone. -/
theorem settingsMoveByTheirCommandsAlone : Obligations.SettingsMoveByTheirCommandsAlone := by
  refine ⟨⟨State.bitRate_eq, fun c s t h hhard hrelease => ?_⟩, fun c s t h hc => ?_⟩
  · have hk : KeepsSettings (∀ p rest, c ≠ .setTime p rest) False s t :=
      exec_keepsSettings h hhard hrelease id False.elim
    exact ⟨hk.rate1, hk.rate0, hk.seconds, hk.micro, hk.timebase⟩
  · have hleaves : LeavesOwners c := hc
    have hk : KeepsSettings False True s t :=
      exec_keepsSettings h (by rintro cause rfl; exact hleaves) (by rintro a b rfl; exact hleaves) False.elim fun _ => hleaves
    exact hk.owner trivial

end Sys2Proof.Machine

namespace Sys2Proof.Machine

/-! ## The queue of commands -/

/-! ### O1: the command at the front of the queue -/

theorem step_of_pending_cons {s : State} {c : Instr} {rest : List Instr} (h : s.pending = c :: rest) :
    step s = exec c { s with pending := rest } := by
  unfold step
  rw [h]

/-- Settles O1: a step on a queue that is not empty is its front command's. -/
theorem stepRunsTheFrontCommand : Obligations.StepRunsTheFrontCommand :=
  fun _ _ _ => step_of_pending_cons rfl

/-! ### O3: every command answers, and leaves the queue alone

`QueueIs q s` says which commands wait. A change of any other field gives it back as it stands, so the walk below names only
the operations that branch, fold or hand on, and the changes of one block. -/

/-- The commands that wait are these. -/
def QueueIs (q : List Instr) (s : State) : Prop := s.pending = q

variable {q : List Instr} {s t : State} {p : Port}

namespace QueueIs

section Keeps

variable (h : QueueIs q s)

include h

/-! #### Changes of one port, route or action, and handing on -/

theorem port {f : PortState → PortState} : QueueIs q (s.updPort p f) := h

theorem route {r : RouteNo} {f : Route → Route} : QueueIs q (s.updRoute r f) := h

theorem action {n : ActionNo} {f : Action → Action} : QueueIs q (s.updAction n f) := h

theorem line {i : LineNo} {f : Line → Line} : QueueIs q (s.updLine i f) := h

theorem kept (hk : KeptByHandOn s t) : QueueIs q t := hk.pending.trans h

theorem handOnHeld : QueueIs q (handOnHeld s) := h.kept (handOnHeld_kept s)

theorem raise {i : SourceNo} {detail : Half} : QueueIs q (s.raise i detail) := by
  rw [State.raise_held]
  exact h

theorem closeAll {out : CloseOutcome} {closed : Time} {xs : List Rec} : QueueIs q (s.closeAll out closed xs) := by
  rw [closeAll_eq]
  exact h

theorem lineMoves {i : LineNo} (hm : LineMoves i s t) : QueueIs q t := by
  obtain ⟨f, -, hk⟩ := hm
  exact h.line.kept hk

theorem fire {n : ActionNo} {cause : FireCause} : QueueIs q (fire n cause s) := h.action.raise

theorem endGrace {n : ActionNo} {outcome : GraceOutcome} {endedBy : Option Port} :
    QueueIs q (endGrace n outcome endedBy s) := h

/-! #### The end of a session -/

/-- The queue of commands is the model's own, so a soft reset keeps it (log 25). -/
theorem softReset : QueueIs q (softReset s) := (softReset_pending s).trans h

theorem resetIfPending : QueueIs q (resetIfPending p s) := ite_keeps h.softReset h

theorem returnBatches : QueueIs q (returnBatches p s) := h

theorem endOrderly {schedule : Schedule} : QueueIs q (endOrderly schedule p s) := h.port.returnBatches.resetIfPending

theorem orderlyEnd : QueueIs q (orderlyEnd p s) := h.endOrderly

theorem failOver (moved : List RouteNo) : QueueIs q (moved.foldl (failOver p) s) := by
  induction moved generalizing s with
  | nil => exact h
  | cons r moved ih => exact ih h.route.port

theorem sessionLoss {cause : LossCause} {schedule : Schedule} : QueueIs q (sessionLoss p cause schedule s) := by
  have hmoved : QueueIs q (afterFailover p schedule s) := h.port.returnBatches.failOver _
  have hlost : QueueIs q (loseSession p cause schedule s) := by
    rw [loseSession_eq]
    exact hmoved
  exact hlost.handOnHeld.resetIfPending

theorem callRound : QueueIs q (callRound p s) := ite_keeps h.port (ite_keeps h.orderlyEnd h.sessionLoss)

theorem breakSession : QueueIs q (breakSession p s) := ite_keeps h.sessionLoss (ite_keeps h.port h.endOrderly)

/-! #### Frames from the agent -/

theorem reportAcked (w : Slot) : QueueIs q (reportAcked p s w) := by
  unfold Machine.reportAcked
  cases w.role with
  | plain => exact h
  | notify r tag => exact h.route
  | close | refusedOpen => exact ite_keeps h.orderlyEnd h
  | deviceReset => exact h.resetIfPending

theorem reportAcked_foldl (acked : List Slot) : QueueIs q (acked.foldl (Machine.reportAcked p) s) := by
  induction acked generalizing s with
  | nil => exact h
  | cons w acked ih => exact ih (h.reportAcked w)

theorem applyAck {a : Byte} : QueueIs q (applyAck p a s) := by
  unfold Machine.applyAck
  split
  · exact h
  next acked rest _ => exact (h.port.reportAcked_foldl acked).port

theorem dataInSession {seq info : Byte} {payload : List Byte} : QueueIs q (dataInSession p seq info payload s) :=
  ite_keeps (ite_keeps h.port.applyAck h.port) h.port.applyAck

theorem dataFrame {seq info : Byte} {payload : List Byte} : QueueIs q (dataFrame p seq info payload s) :=
  ite_keeps (ite_keeps h.port.port h.port) h.port.port.dataInSession

theorem ackInSession {seq info : Byte} : QueueIs q (ackInSession p seq info s) :=
  ite_keeps h.applyAck.port.callRound h.applyAck

theorem ackFrame {seq info : Byte} : QueueIs q (ackFrame p seq info s) :=
  ite_keeps h.port h.port.port.ackInSession

/-! #### The service cycle and the actions -/

theorem serviceTimerExpires (r : RouteNo) : QueueIs q (serviceTimerExpires r s) := by
  unfold Machine.serviceTimerExpires
  split
  · exact ite_keeps h.route h.route.raise.handOnHeld
  · exact h

theorem placeNotify {r : RouteNo} {again : Bool} : QueueIs q (placeNotify p r again s) := by
  unfold Machine.placeNotify
  split
  · exact h
  · exact h.port

theorem graceExpires (n : ActionNo) : QueueIs q (graceExpires n s) := by
  unfold Machine.graceExpires
  cases (s.action n).state with
  | grace left => exact h.endGrace.fire.handOnHeld
  | idle | fired cause pulse => exact h

theorem pulseExpires (n : ActionNo) : QueueIs q (pulseExpires n s) := by
  unfold Machine.pulseExpires
  split
  · exact h.action
  all_goals exact h

theorem setOutput (n : ActionNo) : QueueIs q (setOutput p n s) := by
  unfold Machine.setOutput
  cases (s.action n).state with
  | idle => exact h.fire
  | grace left => exact h.endGrace.fire
  | fired cause pulse => exact h

/-! #### Requests -/

theorem takeRequest {code : Byte} {rest : List Byte} (ht : takeRequest p code rest s = some t) : QueueIs q t := by
  unfold Machine.takeRequest at ht
  split at ht <;> split at ht <;> cases ht <;> exact h

theorem takeOpen {seq : Byte} {rest : List Byte} (ht : takeOpen p seq rest s = some t) : QueueIs q t := by
  unfold Machine.takeOpen at ht
  split at ht <;> split at ht <;> cases ht <;> exact h

theorem checked {α : Type} {code tag : Byte} {value : Except Result α} {act : α → State → State}
    (hact : ∀ v, QueueIs q (act v s)) : QueueIs q (checked p code tag value act s) := by
  cases value with
  | error r => exact h.port
  | ok v => exact hact v

theorem configChanged {code : Byte} : QueueIs q (Machine.handOnHeld (configChanged p code s)) := h.raise.handOnHeld

theorem openTaken (seq : Byte) (rest : List Byte) : QueueIs q (openTaken p seq rest s) := by
  have hend : QueueIs q (endBeforeOpen p s) := ite_keeps h h.orderlyEnd
  cases rest with
  | nil => exact hend.port
  | cons tag fields =>
    change QueueIs q (openWith p seq tag fields (endBeforeOpen p s))
    unfold openWith
    cases readOpen fields <;> exact hend.port

theorem dormantWith (tag : Byte) (fields : List Byte) : QueueIs q (dormantWith p tag fields s) := by
  cases fields with
  | nil => exact ite_keeps h.port h.port
  | cons field fields => exact h.port

theorem setTimeWith (tag : Byte) (fields : List Byte) : QueueIs q (setTimeWith p tag fields s) :=
  ite_keeps (configChanged (show QueueIs q { answerOk p setTimeCode tag _ s with timebase := _ } from h)) h.port

theorem configureSource {i : SourceNo} {cfg : SourceConfig} : QueueIs q (configureSource i cfg s) := by
  unfold Machine.configureSource restartLine
  split <;> exact h

theorem sourceSetWith (tag : Byte) (fields : List Byte) : QueueIs q (sourceSetWith p tag fields s) := by
  unfold Machine.sourceSetWith
  split
  · exact h.checked fun _ => ite_keeps h.configureSource.port.configChanged h.port
  · exact h.port

theorem routeSetWith (tag : Byte) (fields : List Byte) : QueueIs q (routeSetWith p tag fields s) := by
  refine h.checked fun v => ite_keeps h.port (ite_keeps h.port (configChanged ?_))
  have hset : QueueIs q (configureRoute v.1 v.2 s) := h.route.closeAll
  exact hset.port.kept ((keptByHandOn_keeps _).handSome _ _ (.rfl _))

theorem claimRouteWith (tag : Byte) (fields : List Byte) : QueueIs q (claimRouteWith p tag fields s) := by
  unfold Machine.claimRouteWith
  split
  · refine h.checked fun v => ?_
    have hchange : QueueIs q (claimChanges p v.1 s) := by
      refine port ?_
      unfold tellOldOwner
      cases (s.route v.1).owner with
      | none => exact h.route
      | some old => exact h.route.port
    unfold claimRouteChecked
    cases s.claim p v.1 v.2 with
    | denied => exact h.port
    | keep => exact h.port.configChanged
    | change => exact hchange.port.configChanged
  · exact h.port

theorem releaseRouteWith (tag : Byte) (fields : List Byte) : QueueIs q (releaseRouteWith p tag fields s) := by
  unfold Machine.releaseRouteWith
  split
  · exact h.checked fun _ => ite_keeps h.route.port.port.configChanged h.port
  · exact h.port

theorem resumeRouteWith (tag : Byte) (fields : List Byte) : QueueIs q (resumeRouteWith p tag fields s) := by
  unfold Machine.resumeRouteWith
  split
  · exact h.checked fun _ => ite_keeps h.route.port h.port
  · exact h.port

theorem serviceDoneWith (tag : Byte) (fields : List Byte) : QueueIs q (serviceDoneWith p tag fields s) := by
  unfold Machine.serviceDoneWith
  split
  · refine h.checked fun v => ite_keeps ?_ h.port
    cases (s.route v.1).batchOf v.2.1 with
    | none => exact h.port
    | some b => exact ite_keeps h.port h.route.closeAll.port.handOnHeld
  · exact h.port

theorem actionSetWith (tag : Byte) (fields : List Byte) : QueueIs q (actionSetWith p tag fields s) :=
  h.checked fun _ => ite_keeps h.action.port.configChanged h.port

theorem cancelActionWith (tag : Byte) (fields : List Byte) : QueueIs q (cancelActionWith p tag fields s) := by
  unfold Machine.cancelActionWith
  split
  · refine h.checked fun n => ?_
    unfold cancelActionChecked
    cases (s.action n).state with
    | grace left => exact h.endGrace.action.port
    | idle | fired cause pulse => exact h.port
  · exact h.port

theorem setOutputWith (tag : Byte) (fields : List Byte) : QueueIs q (setOutputWith p tag fields s) := by
  unfold Machine.setOutputWith
  split
  · exact h.checked fun n => (h.setOutput n).port.handOnHeld
  · exact h.port

theorem clearOutputWith (tag : Byte) (fields : List Byte) : QueueIs q (clearOutputWith p tag fields s) := by
  unfold Machine.clearOutputWith
  split
  · refine h.checked fun n => ?_
    unfold clearOutputChecked
    cases (s.action n).state with
    | fired cause pulse => exact h.action.port
    | idle | grace left => exact h.port
  · exact h.port

theorem answerBadCode {code : Byte} {rest : List Byte} : QueueIs q (answerBadCode p code rest s) := by
  refine ite_keeps h ?_
  cases e : Machine.takeRequest p code rest s with
  | none => exact h
  | some u => exact (h.takeRequest e).port

/-- A request answered leaves the queue that its action on the part leaves. -/
theorem of_request {code : Byte} {rest : List Byte} {act : Byte → List Byte → State → State}
    (ht : taken s (request p code rest act) = .next t) (hact : ∀ tag fields u, QueueIs q u → QueueIs q (act tag fields u)) :
    QueueIs q t := by
  refine keeps_of_taken ht ?_ h
  unfold request
  cases e : Machine.takeRequest p code rest s with
  | none => exact h
  | some u =>
    have hu : QueueIs q u := h.takeRequest e
    cases rest with
    | nil => exact hu.port
    | cons tag fields => exact hact tag fields u hu

/-! #### Every command -/

/-- No command touches the queue. -/
theorem exec {c : Instr} (ht : exec c s = .next t) : QueueIs q t := by
  cases c with
  | hardReset cause =>
    cases ht
    exact h
  | resetRelease rate1 rate0 =>
    cases ht
    split <;> exact h
  | sampleInstant raw => exact keeps_of_taken ht (ite_keeps h h) h
  | acceptedLevelChange i => exact h.lineMoves (exec_acceptedLevelChange_moves ht)
  | settleReport i => exact h.lineMoves (exec_settleReport_moves ht)
  | holdoffExpiry i => exact h.kept (exec_holdoffExpiry_kept ht)
  | serviceTimerExpiry r => exact keeps_of_taken ht (h.serviceTimerExpires r) h
  | formBatch p | reoffer p =>
    dsimp only [Machine.exec] at ht
    refine keeps_of_taken ht ?_ h
    split
    · exact h.route.placeNotify
    · exact h
  | placeReply p | routeLost p | routeGained p | actionPending p | actionEnded p | transmitDataFrame p =>
    dsimp only [Machine.exec] at ht
    refine keeps_of_taken ht ?_ h
    split
    · exact h.port
    · exact h
  | graceExpiry n => exact keeps_of_taken ht (h.graceExpires n) h
  | pulseExpiry n => exact keeps_of_taken ht (h.pulseExpires n) h
  | syncByte p | frameHeaderReceived p bytes | payloadBad p ftype bytes | skipComplete p =>
    exact keeps_of_received ht h.port h
  | interByteGap p | framingError p | ackDelayExpiry p | frameTransmitEnd p | breakLineMark p =>
    exact keeps_of_taken ht h.port h
  | dataFrameReceived p seq info payload => exact keeps_of_received ht (ite_keeps h.dataFrame h) h
  | ackFrameReceived p seq info payload => exact keeps_of_received ht (ite_keeps h.ackFrame h) h
  | announceFrameReceived p seq info payload => exact keeps_of_received ht (ite_keeps h.port h) h
  | transmitAckFrame p | announce p => exact keeps_of_taken ht (ite_keeps h.port h) h
  | retransmitTimeout p => exact keeps_of_taken ht (ite_keeps (h.port.callRound) h) h
  | linkBreak p =>
    dsimp only [Machine.exec] at ht
    exact keeps_of_taken ht (ite_keeps h (h.port.breakSession)) h
  | silenceExpiry p => exact keeps_of_taken ht (ite_keeps h.sessionLoss h) h
  | deviceResetTimeout p => exact keeps_of_taken ht (ite_keeps h.softReset h) h
  | openSession p seq rest =>
    dsimp only [Machine.exec] at ht
    refine keeps_of_taken ht ?_ h
    split
    · exact h
    next u hu => exact (h.takeOpen hu).openTaken seq rest
  | close p rest | ping p rest | status p rest | deviceReset p rest | getTime p rest | lineRead p rest =>
    refine h.of_request ht fun tag fields u hu => ?_
    cases fields <;> exact hu.port
  | sourceGet p rest | routeGet p rest | actionGet p rest | historyRead p rest =>
    refine h.of_request ht fun tag fields u hu => ?_
    dsimp only [sourceGetWith, routeGetWith, actionGetWith, historyReadWith]
    split
    · exact hu.checked fun _ => hu.port
    · exact hu.port
  | dormant p rest => exact h.of_request ht fun tag fields _ hu => hu.dormantWith tag fields
  | setTime p rest => exact h.of_request ht fun tag fields _ hu => hu.setTimeWith tag fields
  | sourceSet p rest => exact h.of_request ht fun tag fields _ hu => hu.sourceSetWith tag fields
  | routeSet p rest => exact h.of_request ht fun tag fields _ hu => hu.routeSetWith tag fields
  | claimRoute p rest => exact h.of_request ht fun tag fields _ hu => hu.claimRouteWith tag fields
  | releaseRoute p rest => exact h.of_request ht fun tag fields _ hu => hu.releaseRouteWith tag fields
  | resumeRoute p rest => exact h.of_request ht fun tag fields _ hu => hu.resumeRouteWith tag fields
  | serviceDone p rest => exact h.of_request ht fun tag fields _ hu => hu.serviceDoneWith tag fields
  | actionSet p rest => exact h.of_request ht fun tag fields _ hu => hu.actionSetWith tag fields
  | cancelAction p rest => exact h.of_request ht fun tag fields _ hu => hu.cancelActionWith tag fields
  | setOutput p rest => exact h.of_request ht fun tag fields _ hu => hu.setOutputWith tag fields
  | clearOutput p rest => exact h.of_request ht fun tag fields _ hu => hu.clearOutputWith tag fields
  | badCode p code rest => exact keeps_of_taken ht h.answerBadCode h

end Keeps

end QueueIs

/-- Every arm of the dispatch answers a next state: hard reset and its release write it out, all others are `taken`. -/
theorem exec_next (c : Instr) (s : State) : ∃ t, exec c s = .next t := by
  cases c <;> exact ⟨_, rfl⟩

/-- Settles O3: every arm answers, and what it answers has the queue of the part it began with. -/
theorem everyCommandAnswersANextState : Obligations.EveryCommandAnswersANextState := by
  intro c s
  obtain ⟨t, ht⟩ := exec_next c s
  have hs : QueueIs s.pending s := rfl
  exact ⟨t, ht, hs.exec ht⟩

end Sys2Proof.Machine
